-- ==== Sys2Proof/Word.lean ====
section
/-! DEFINITION. The sizes of what the machine holds: words, opcode bytes, register numbers, immediates, and the
memory list (spec 00_scope.md R9, 10_state.md R12, R17, R19). -/

namespace Sys2Proof

/-- A 32-bit pattern: the contents of a register or of a memory word (R9). -/
abbrev Word := BitVec 32

/-- The opcode field, 0..255 (R19, R50). -/
abbrev Opcode := BitVec 8

/-- A register number, 0..15 (R9). Register 0 is an ordinary register (R12). -/
abbrev Reg := Fin 16

/-- The 12-bit immediate, an unsigned absolute word address (R52). -/
abbrev Addr := BitVec 12

/-- Memory as the words that are listed, by word address (R17, R40): the smallest addressable unit is the 32-bit
word (R42), so a cell is a word, not a byte (log 14). Its one canonical form is `Memory.wf` in Machine/Ops.lean. -/
abbrev Memory := List (Nat × Word)

end Sys2Proof
end

