-- ==== Sys2Proof/Config.lean ====
section
/-! DEFINITION. What is constant during a run: the operation kinds, the parameters of 00_scope.md R8, and the free
values (opaque, no body) that the spec leaves to an implementation. -/

namespace Sys2Proof

/-- The six operation kinds, one functional unit pool each (R8, R9, R21). -/
inductive Kind
  | add | sub | mul | div | ld | st
  deriving DecidableEq, Repr

/-- The fixed pool order (R21, R62): ADD, SUB, MUL, DIV, LD, ST. -/
def Kind.all : List Kind := [.add, .sub, .mul, .div, .ld, .st]

/-- One value for each kind. -/
structure PerKind (α : Type) where
  add : α
  sub : α
  mul : α
  div : α
  ld : α
  st : α
  deriving DecidableEq, Repr

/-- The value held for kind `k`. -/
def PerKind.get {α : Type} (p : PerKind α) : Kind → α
  | .add => p.add
  | .sub => p.sub
  | .mul => p.mul
  | .div => p.div
  | .ld => p.ld
  | .st => p.st

/-- Change the value held for kind `k`, and no other. -/
def PerKind.update {α : Type} (p : PerKind α) (k : Kind) (f : α → α) : PerKind α :=
  match k with
  | .add => { p with add := f p.add }
  | .sub => { p with sub := f p.sub }
  | .mul => { p with mul := f p.mul }
  | .div => { p with div := f p.div }
  | .ld => { p with ld := f p.ld }
  | .st => { p with st := f p.st }

/-- Change the value held for every kind. -/
def PerKind.map {α β : Type} (f : α → β) (p : PerKind α) : PerKind β :=
  { add := f p.add, sub := f p.sub, mul := f p.mul, div := f p.div, ld := f p.ld, st := f p.st }

/-- The same value for every kind. -/
def PerKind.const {α : Type} (a : α) : PerKind α :=
  { add := a, sub := a, mul := a, div := a, ld := a, st := a }

/-- The name (k, j) of unit j of pool k (R9, `UnitId`). -/
structure UnitId where
  kind : Kind
  idx : Nat
  deriving DecidableEq, Repr

/-- The opcode numbers and the halt word (R8, R53, R56): parameters with defaults (D2, D3, G1). -/
structure OpcodeMap where
  ld : Opcode
  st : Opcode
  add : Opcode
  sub : Opcode
  mul : Opcode
  div : Opcode
  halt : Opcode
  haltWord : Word
  deriving DecidableEq, Repr

/-- The default numbers of R53, those of opcode_table.json. -/
def OpcodeMap.default : OpcodeMap :=
  { ld := 0x00, st := 0x01, add := 0x02, sub := 0x03, mul := 0x04, div := 0x05, halt := 0x06
    haltWord := 0x06000000 }

/-- What the issue phase does when the oldest unissued instruction cannot issue (R80, C2, D8). -/
inductive IssuePolicy
  /-- Only the oldest unissued instruction is considered: the default. -/
  | inOrder
  /-- The scan goes on to the next unissued instruction. -/
  | firstFit
  deriving DecidableEq, Repr

/-- Which four functions `fadd`, `fsub`, `fmul`, `fdiv` the run is given (R121, D7). State is plain data and can hold
no function, so the parameter is a choice between the spec's instantiation and four unknown functions (log 4). -/
inductive Numerics
  /-- The recommended instantiation: IEEE 754 binary32, round to nearest even, no traps (Machine/Binary32.lean). -/
  | binary32
  /-- Whatever four total functions the host supplies: `Config.fadd` to `Config.fdiv`, of which nothing is known. -/
  | supplied
  deriving DecidableEq, Repr

/-- The parameters of R8 that are not fixed by the types: set by the host before a run and constant during it (R26). -/
structure Params where
  /-- `NR_UNITS[k]`: any natural number, 0 included (D17). -/
  nrUnits : PerKind Nat
  /-- `DELAY[k]`: at least 2; smaller values are refused (R178). -/
  delay : PerKind Nat
  /-- `TRACE_UNIT`: the unit whose snapshots the unit trace holds (R153). -/
  traceUnit : UnitId
  /-- `MEM_INIT`: the initial content of memory (R165). -/
  memInit : Memory
  /-- `MEM_WORDS` (D5). -/
  memWords : Nat
  /-- `OPC_LD` to `OPC_HALT`, `HALT_WORD`. -/
  opcodes : OpcodeMap
  /-- `CC_RESET` (D4). -/
  ccReset : Nat
  /-- `ISSUE_POLICY` (D8). -/
  policy : IssuePolicy
  /-- The four arithmetic functions (D7). -/
  numerics : Numerics
  deriving DecidableEq, Repr

/-- `QSLOTS`: the queue's capacity, "always 16" (R8, R18). -/
def queueSlots : Nat := 16

/-- The parameters of `State.reset`: the spec's defaults where R8 gives one. The unit counts, latencies, trace unit and
memory image have no default in the spec ("the host must supply all twelve numbers", R26): one unit and latency 2 for
every kind, ADD0, every word 0, the convention of 95_test_vectors.md. DESIGN CHOICE, unsafe (log 2, log 3). -/
def Params.default : Params :=
  { nrUnits := .const 1, delay := .const 2, traceUnit := ⟨.add, 0⟩, memInit := [], memWords := 4096
    opcodes := .default, ccReset := 1, policy := .inOrder, numerics := .binary32 }

namespace Config

/-! Free values: no body, so that nothing can be proved of what they are (R121, U6, U7; log 4, log 5). -/

/-- `fadd` as supplied by the host under `Numerics.supplied` (R121). -/
opaque fadd : Word → Word → Word
/-- `fsub` as supplied by the host under `Numerics.supplied` (R121). -/
opaque fsub : Word → Word → Word
/-- `fmul` as supplied by the host under `Numerics.supplied` (R121). -/
opaque fmul : Word → Word → Word
/-- `fdiv` as supplied by the host under `Numerics.supplied` (R121). -/
opaque fdiv : Word → Word → Word

/-- The word from which the sign and the fraction of a NaN result are taken under `Numerics.binary32`, by operation
and operands: "a NaN whose sign and payload are not fixed" (R126, U6). -/
opaque nanChoice : Kind → Word → Word → Word

end Config

end Sys2Proof
end

