-- ==== Sys2Proof/Machine/Binary32.lean ====
section
/-! DEFINITION. IEEE 754 binary32 arithmetic, round to nearest with ties to even, no traps: the instantiation of `fadd`,
`fsub`, `fmul`, `fdiv` that the spec recommends (47_arith.md R121, R126; 93_implementation_defined.md G2, G3). Each
operation is computed exactly on integers and narrowed once. PRESUMED from general knowledge, as the spec marks it
(log 4); the sign and payload of a NaN result are a free value (log 5). -/

namespace Sys2Proof.Machine.Binary32

/-- What a pattern stands for (G3): a finite value is plus or minus `mant * 2 ^ exp`. -/
inductive Datum
  | nan
  | inf (neg : Bool)
  | finite (neg : Bool) (mant : Nat) (exp : Int)
  deriving DecidableEq, Repr

/-- The sign bit [31]. -/
def signOf (w : Word) : Bool := w.msb

/-- The exponent field [30:23], bias 127. -/
def expField (w : Word) : Nat := (w.extractLsb' 23 8).toNat

/-- The fraction field [22:0]. -/
def fracField (w : Word) : Nat := (w.extractLsb' 0 23).toNat

/-- Read a pattern: a normal number has a hidden leading 1; exponent field 0 is zero or subnormal; exponent field 255 is
an infinity or a NaN (G3). -/
def unpack (w : Word) : Datum :=
  if expField w = 255 then (if fracField w = 0 then .inf (signOf w) else .nan)
  else if expField w = 0 then .finite (signOf w) (fracField w) (-149)
  else .finite (signOf w) (2 ^ 23 + fracField w) (expField w - 150)

/-- The pattern with the given sign bit and magnitude bits [30:0]. -/
def withSign (neg : Bool) (magnitude : Nat) : Word :=
  (BitVec.ofBool neg ++ BitVec.ofNat 31 magnitude : BitVec 32)

/-- The magnitude bits of an infinity. -/
def infBits : Nat := 0x7F800000

/-- A zero with the given sign. -/
def zero (neg : Bool) : Word := withSign neg 0

/-- An infinity with the given sign. -/
def infinity (neg : Bool) : Word := withSign neg infBits

/-- A NaN whose sign and fraction come from `c`: exponent all ones, fraction not zero (U6). Every NaN pattern is `nanOf`
of itself. -/
def nanOf (c : Word) : Word :=
  withSign (signOf c) (infBits + if fracField c = 0 then 1 else fracField c)

/-- `n / 2 ^ k` rounded to the nearest integer, ties to even. -/
def roundShift (n k : Nat) : Nat :=
  let q := n / 2 ^ k
  let twice := 2 * (n % 2 ^ k)
  if 2 ^ k < twice ∨ (twice = 2 ^ k ∧ q % 2 = 1) then q + 1 else q

/-- The exponent of the last place kept when `n * 2 ^ e` is narrowed: 24 significant bits, but no smaller unit than the
smallest subnormal (no flush to zero, R126). -/
def lastPlace (n : Nat) (e : Int) : Int := max (e + (n.log2 : Int) - 23) (-149)

/-- The magnitude `n * 2 ^ e` in units of the last place kept, rounded to nearest even. -/
def roundedMant (n : Nat) (e : Int) : Nat :=
  let q := lastPlace n e
  if q ≤ e then n * 2 ^ (e - q).toNat else roundShift n (q - e).toNat

/-- The magnitude bits of `n * 2 ^ e` after rounding: the exponent field and the fraction add up, a carry out of the
fraction included, and a magnitude too large for the format is infinite. -/
def roundBits (n : Nat) (e : Int) : Nat :=
  min ((lastPlace n e + 149).toNat * 2 ^ 23 + roundedMant n e) infBits

/-- Plus or minus `n * 2 ^ e` narrowed to binary32. -/
def round (neg : Bool) (n : Nat) (e : Int) : Word :=
  if n = 0 then zero neg else withSign neg (roundBits n e)

/-- The signed integer that `mant * 2 ^ exp` is in units of `2 ^ unit`, where `unit` is no larger than `exp`. -/
def scaled (neg : Bool) (mant : Nat) (exp unit : Int) : Int :=
  let m : Int := (mant * 2 ^ (exp - unit).toNat : Nat)
  if neg then -m else m

/-- The sum of two finite values. An exact zero is negative only if both operands are negative zeros. -/
def addFinite (n1 : Bool) (m1 : Nat) (e1 : Int) (n2 : Bool) (m2 : Nat) (e2 : Int) : Word :=
  let unit := min e1 e2
  let t := scaled n1 m1 e1 unit + scaled n2 m2 e2 unit
  if t = 0 then zero (n1 && n2 && decide (m1 = 0)) else round (decide (t < 0)) t.natAbs unit

/-- The sum of two data; `c` is the free NaN choice. -/
def addData (c : Word) : Datum → Datum → Word
  | .nan, _ => nanOf c
  | .inf _, .nan => nanOf c
  | .inf n1, .inf n2 => if n1 = n2 then infinity n1 else nanOf c
  | .inf n1, .finite _ _ _ => infinity n1
  | .finite _ _ _, .nan => nanOf c
  | .finite _ _ _, .inf n2 => infinity n2
  | .finite n1 m1 e1, .finite n2 m2 e2 => addFinite n1 m1 e1 n2 m2 e2

/-- The opposite of a datum. -/
def negate : Datum → Datum
  | .nan => .nan
  | .inf n => .inf (!n)
  | .finite n m e => .finite (!n) m e

/-- The product of two data. -/
def mulData (c : Word) : Datum → Datum → Word
  | .nan, _ => nanOf c
  | .inf _, .nan => nanOf c
  | .inf n1, .inf n2 => infinity (n1 ^^ n2)
  | .inf n1, .finite n2 m2 _ => if m2 = 0 then nanOf c else infinity (n1 ^^ n2)
  | .finite _ _ _, .nan => nanOf c
  | .finite n1 m1 _, .inf n2 => if m1 = 0 then nanOf c else infinity (n1 ^^ n2)
  | .finite n1 m1 e1, .finite n2 m2 e2 => round (n1 ^^ n2) (m1 * m2) (e1 + e2)

/-- The quotient of two finite values with a divisor that is not zero: fifty more quotient bits than the dividend's
unit, and a last bit that says whether a remainder is left, so that one rounding is exact rounding. -/
def divFinite (neg : Bool) (m1 : Nat) (e1 : Int) (m2 : Nat) (e2 : Int) : Word :=
  let n := m1 * 2 ^ 50
  round neg (2 * (n / m2) + if n % m2 = 0 then 0 else 1) (e1 - e2 - 51)

/-- The quotient of two data. -/
def divData (c : Word) : Datum → Datum → Word
  | .nan, _ => nanOf c
  | .inf _, .nan => nanOf c
  | .inf _, .inf _ => nanOf c
  | .inf n1, .finite n2 _ _ => infinity (n1 ^^ n2)
  | .finite _ _ _, .nan => nanOf c
  | .finite n1 _ _, .inf n2 => zero (n1 ^^ n2)
  | .finite n1 m1 e1, .finite n2 m2 e2 =>
    if m2 = 0 then (if m1 = 0 then nanOf c else infinity (n1 ^^ n2)) else divFinite (n1 ^^ n2) m1 e1 m2 e2

/-- src0 + src1. -/
def add (a b : Word) : Word := addData (Config.nanChoice .add a b) (unpack a) (unpack b)

/-- src0 - src1: the sum with the second operand's opposite. -/
def sub (a b : Word) : Word := addData (Config.nanChoice .sub a b) (unpack a) (negate (unpack b))

/-- src0 × src1. -/
def mul (a b : Word) : Word := mulData (Config.nanChoice .mul a b) (unpack a) (unpack b)

/-- src0 ÷ src1. -/
def div (a b : Word) : Word := divData (Config.nanChoice .div a b) (unpack a) (unpack b)

end Sys2Proof.Machine.Binary32
end

