-- ==== Sys2Proof/Syntax.lean ====
section
/-! DEFINITION. The seven instructions of spec/opcode_table.json, one constructor a row. Every executing instruction has
the four operand fields of the one format (30_encoding.md R50, R54); a field an instruction ignores is kept, because the
queue record keeps it (10_state.md R19) and encoding is lossless (R57). -/

namespace Sys2Proof

/-- An instruction of the machine (R3, R53). -/
inductive Instr
  /-- LD (R130): `F[dst] <- M[imm]`; `src0` and `src1` are waited for, not used. -/
  | ld (dst src0 src1 : Reg) (imm : Addr)
  /-- ST (R131): `M[imm] <- F[src1]`; `dst` and `src0` are recorded, not used. -/
  | st (dst src0 src1 : Reg) (imm : Addr)
  /-- ADD (R122): `F[dst] <- fadd(F[src0], F[src1])`; `imm` is ignored. -/
  | add (dst src0 src1 : Reg) (imm : Addr)
  /-- SUB (R123): `F[dst] <- fsub(F[src0], F[src1])`; `imm` is ignored. -/
  | sub (dst src0 src1 : Reg) (imm : Addr)
  /-- MUL (R124): `F[dst] <- fmul(F[src0], F[src1])`; `imm` is ignored. -/
  | mul (dst src0 src1 : Reg) (imm : Addr)
  /-- DIV (R125): `F[dst] <- fdiv(F[src0], F[src1])`; `imm` is ignored. -/
  | div (dst src0 src1 : Reg) (imm : Addr)
  /-- HALT (R135): the halt word at the fetch cursor. -/
  | halt
  deriving DecidableEq, Repr

/-- The executing instruction of kind `k` with the given operand fields (R53). -/
def Instr.ofKind (k : Kind) (dst src0 src1 : Reg) (imm : Addr) : Instr :=
  match k with
  | .add => .add dst src0 src1 imm
  | .sub => .sub dst src0 src1 imm
  | .mul => .mul dst src0 src1 imm
  | .div => .div dst src0 src1 imm
  | .ld => .ld dst src0 src1 imm
  | .st => .st dst src0 src1 imm

/-- The pool that executes an instruction; HALT has none (R53). -/
def Instr.kind : Instr → Option Kind
  | .ld _ _ _ _ => some .ld
  | .st _ _ _ _ => some .st
  | .add _ _ _ _ => some .add
  | .sub _ _ _ _ => some .sub
  | .mul _ _ _ _ => some .mul
  | .div _ _ _ _ => some .div
  | .halt => none

end Sys2Proof
end

