-- ==== Sys2Proof/WellFormed.lean ====
section
/-! DEFINITION. What may be run: the legal ranges of the parameters (00_scope.md R8, 70_reset_and_hazards.md R178), and
the instructions that the chosen memory size admits (20_memory.md R44). Register numbers and immediates are in range by
their types (R51). -/

namespace Sys2Proof

/-- Every latency is at least 2 (R178, U2). -/
def Params.latenciesLegal (p : Params) : Bool :=
  Kind.all.all fun k => decide (2 ≤ p.delay.get k)

/-- The seven opcode numbers are distinct (R8), and the halt word carries the halt opcode in its high byte (R135; by
default every other field is 0). -/
def OpcodeMap.legal (m : OpcodeMap) : Bool :=
  decide ([m.ld, m.st, m.add, m.sub, m.mul, m.div, m.halt].Nodup)
    && m.haltWord.extractLsb' 24 8 == m.halt

/-- A configuration inside the legal ranges of R8. -/
def Params.legal (p : Params) : Bool :=
  p.latenciesLegal && p.opcodes.legal

/-- An LD or ST names a word that exists: with `MEM_WORDS` = 4096 every one does (R44). -/
def Instr.wellFormed (p : Params) : Instr → Bool
  | .ld _ _ _ imm => decide (imm.toNat < p.memWords)
  | .st _ _ _ imm => decide (imm.toNat < p.memWords)
  | .add _ _ _ _ => true
  | .sub _ _ _ _ => true
  | .mul _ _ _ _ => true
  | .div _ _ _ _ => true
  | .halt => true

end Sys2Proof
end

