-- ==== Sys2Proof/Decode.lean ====
section
/-! DEFINITION. The instruction codec (30_encoding.md): the fields of a word, the opcode map, the decoder, total on any
word and rejecting by name, and after it the encoder. -/

namespace Sys2Proof

/-- The five fields of the one format (R50). -/
structure Fields where
  opcode : Opcode
  dst : Reg
  src0 : Reg
  src1 : Reg
  imm : Addr
  deriving DecidableEq, Repr

/-- A 4-bit field of a word as a register number, with no remapping (R52). -/
def regField (w : Word) (lo : Nat) : Reg := (w.extractLsb' lo 4).toFin

/-- Decode is a total pure function of the word (R51). -/
def decodeFields (w : Word) : Fields :=
  { opcode := w.extractLsb' 24 8
    dst := regField w 20
    src0 := regField w 16
    src1 := regField w 12
    imm := w.extractLsb' 0 12 }

/-- `kind_of` (R53): the kind of the six executing opcodes, none for every other value. -/
def OpcodeMap.kindOf (m : OpcodeMap) (o : Opcode) : Option Kind :=
  if o = m.ld then some .ld
  else if o = m.st then some .st
  else if o = m.add then some .add
  else if o = m.sub then some .sub
  else if o = m.mul then some .mul
  else if o = m.div then some .div
  else none

/-- Why a word is no instruction (R55): such a word is queued and never issues. -/
inductive DecodeError
  /-- The halt opcode in a word other than the halt word (R136). -/
  | haltWithOperands (w : Word)
  /-- An opcode with no kind (R137). -/
  | undefinedOpcode (o : Opcode)
  deriving DecidableEq, Repr

/-- The instruction a word stands for. The halt test compares the whole word and comes first (R56, R70). -/
def decodeWith (m : OpcodeMap) (w : Word) : Except DecodeError Instr :=
  if w = m.haltWord then .ok .halt
  else
    let f := decodeFields w
    match m.kindOf f.opcode with
    | some k => .ok (.ofKind k f.dst f.src0 f.src1 f.imm)
    | none => if f.opcode = m.halt then .error (.haltWithOperands w) else .error (.undefinedOpcode f.opcode)

/-- The decoder with the opcode numbers of opcode_table.json. -/
def decode (w : Word) : Except DecodeError Instr := decodeWith .default w

/-- The word with the given fields (R57): each field shifted to its place. -/
def encodeFields (f : Fields) : Word :=
  (f.opcode.setWidth 32 <<< 24) ||| ((BitVec.ofFin f.dst : BitVec 4).setWidth 32 <<< 20)
    ||| ((BitVec.ofFin f.src0 : BitVec 4).setWidth 32 <<< 16)
    ||| ((BitVec.ofFin f.src1 : BitVec 4).setWidth 32 <<< 12) ||| f.imm.setWidth 32

/-- The word of an instruction (R53, R57). -/
def encodeWith (m : OpcodeMap) : Instr → Word
  | .ld dst src0 src1 imm => encodeFields ⟨m.ld, dst, src0, src1, imm⟩
  | .st dst src0 src1 imm => encodeFields ⟨m.st, dst, src0, src1, imm⟩
  | .add dst src0 src1 imm => encodeFields ⟨m.add, dst, src0, src1, imm⟩
  | .sub dst src0 src1 imm => encodeFields ⟨m.sub, dst, src0, src1, imm⟩
  | .mul dst src0 src1 imm => encodeFields ⟨m.mul, dst, src0, src1, imm⟩
  | .div dst src0 src1 imm => encodeFields ⟨m.div, dst, src0, src1, imm⟩
  | .halt => m.haltWord

/-- The encoder with the opcode numbers of opcode_table.json. -/
def encode (i : Instr) : Word := encodeWith .default i

/-- What the decoder reads from an instruction whose bits are `w`, numbered as opcode_table.json numbers them: every row
is one 32-bit word, bits above `nbits` are 0. -/
def decodeTableWord (nbits w : Nat) : Option Instr :=
  match decode (BitVec.ofNat 32 (w % 2 ^ nbits)) with
  | .ok i => some i
  | .error _ => none

end Sys2Proof
end

