-- ==== Sys2Proof/Machine/State.lean ====
section
/-! DEFINITION. The state of the machine (10_state.md R10) as plain data, the reasons a step can stop, and the state
after reset (70_reset_and_hazards.md R160). -/

namespace Sys2Proof.Machine

/-- An instruction record of the queue (R19). A timestamp is a cycle number or unset. -/
structure InstrRecord where
  /-- The raw 32-bit word. -/
  word : Word
  opcode : Opcode
  dst : Reg
  src0 : Reg
  src1 : Reg
  imm : Addr
  /-- Issue timestamp, set by the issue phase (R84). -/
  issue : Option Nat
  /-- Read timestamp, set by the read-operands phase (R92). -/
  read : Option Nat
  /-- Execute-complete timestamp, set by the execute phase (R104). -/
  exec : Option Nat
  /-- Write-back timestamp, set by the write-back phase (R111). -/
  write : Option Nat
  /-- Index of the unit that serves it, kept after write-back; the unit's kind is the kind of `opcode`. -/
  unit : Option Nat
  /-- Program index: the address it was fetched from (R75). -/
  pidx : Nat
  deriving DecidableEq, Repr

/-- The dynamic fields of a functional unit (R22). The fixed ones, kind and index, are its place in `State.pools`, and
its latency is `cfg.delay` of its kind (log 9). -/
structure FunctionalUnit where
  /-- 1 from issue until write-back. -/
  busy : Bool
  /-- Remaining cycles. -/
  remaining : Nat
  dst : Option Reg
  src0 : Option Reg
  src1 : Option Reg
  ready0 : Bool
  ready1 : Bool
  /-- The producing unit of `src0`, if not ready. -/
  q0 : Option UnitId
  /-- The producing unit of `src1`, if not ready. -/
  q1 : Option UnitId
  /-- The staged result; none means not yet computed. -/
  result : Option Word
  /-- The queue slot it serves. -/
  slot : Option Nat
  /-- Write-after-write flag. -/
  waw : Bool
  deriving DecidableEq, Repr

/-- Every dynamic field at its reset value (R22, D26): the state of a unit at reset and after write-back (R111). -/
def FunctionalUnit.idle : FunctionalUnit :=
  { busy := false, remaining := 0, dst := none, src0 := none, src1 := none, ready0 := false, ready1 := false
    q0 := none, q1 := none, result := none, slot := none, waw := false }

/-- A record of the instruction trace (R152). -/
structure TraceRecord where
  word : Word
  pidx : Nat
  kind : Option Kind
  unit : Option Nat
  issue : Option Nat
  read : Option Nat
  exec : Option Nat
  write : Option Nat
  deriving DecidableEq, Repr

/-- A record of the unit trace (R153). -/
structure UnitSnapshot where
  cc : Nat
  unit : UnitId
  dst : Option Reg
  src0 : Option Reg
  src1 : Option Reg
  q0 : Option UnitId
  q1 : Option UnitId
  ready0 : Bool
  ready1 : Bool
  deriving DecidableEq, Repr

/-- The place in a tick at which an instruction is served: the MODEL's own cursor, not state of the hardware (log 6).
A tick (R60) serves one word at the fetch cursor, at most one queued instruction at issue, and every busy unit at each
of the four later phases. -/
inductive Station
  /-- The instruction stands at the fetch cursor (R70). -/
  | fetch
  /-- The instruction in queue slot `slot` is being issued to unit `u` (R82 to R84). -/
  | issue (u : UnitId) (slot : Nat)
  /-- Unit `u` is visited by the read-operands phase (R90). -/
  | readOperands (u : UnitId)
  /-- Unit `u` is visited by the execute phase (R100). -/
  | execute (u : UnitId)
  /-- Unit `u` is visited by the write-back phase (R110). -/
  | writeBack (u : UnitId)
  /-- Unit `u` is visited by the clear-busy phase (R115). -/
  | clearBusy (u : UnitId)
  deriving DecidableEq, Repr

/-- The complete state (R10), the configuration it runs under (R26; constant, log 1), the two trace outputs (R152,
R153; log 15) and the model's own cursor inside a tick (log 6). -/
structure State where
  /-- The configuration: a parameter of the step, the same in every state of a run. -/
  cfg : Params
  /-- `F[0]` to `F[15]` (R12). -/
  regs : Vector Word 16
  /-- The fetch cursor (R14). -/
  pc : Nat
  /-- The cycle counter (R15). -/
  cc : Nat
  /-- `halt_reached` (R16). -/
  haltReached : Bool
  /-- `M` (R17). -/
  mem : Memory
  /-- `Q`: slot n is entry n, slots past the end are empty (R18, R20(c), R31; log 8). -/
  queue : List InstrRecord
  /-- `U[k][j]`: entry j of pool k (R21). -/
  pools : PerKind (List FunctionalUnit)
  /-- `busy_type` and `busy_idx` as one table of pairs (R24). -/
  busy : Vector (Option UnitId) 16
  /-- The instruction trace so far, in ascending program index (R152). -/
  instrTrace : List TraceRecord
  /-- The unit trace so far, in tick order (R153). -/
  unitTrace : List UnitSnapshot
  /-- Where in a tick `exec` stands; `.fetch` between ticks. -/
  station : Station
  deriving DecidableEq, Repr

/-- Why the machine has no next state. -/
inductive Fault
  /-- `stuck` (R14, R70, U3): the fetch cursor is at `MEM_WORDS` and the halt word has not been met. Raised by the fetch
  phase. Safe: the spec defines no step here. -/
  | fetchPastEnd
  /-- A busy unit's `slot` names no queue record of an executing instruction. Raised by the four unit phases. Safe: the
  spec's rules read such a record, so no step is defined, and no state that keeps R23(b) raises it (log 10). -/
  | unitWithoutInstruction
  /-- A unit writes back with no staged result. Raised by the write-back of a register, and by the completion of a store
  (which stages its value first, so it never gets there). Safe: `value_of(none)` has no meaning in R104 and R111, and no
  state that keeps the invariant raises it (log 10). -/
  | unitWithoutResult
  deriving DecidableEq, Repr

/-- What the machine declines to run. -/
inductive Refusal
  /-- An instruction with no meaning yet. Raised by no arm. Safe. -/
  | notModelled (mnemonic : String)
  /-- A latency below 2 (R178, U2). Raised by `step`. Safe: the spec asks a model to refuse it. -/
  | illegalLatency
  /-- Opcode numbers that are not seven distinct values, or a halt word without the halt opcode (R8). Raised by `step`.
  Safe: outside the legal ranges the spec defines nothing. -/
  | illegalOpcodes
  /-- An LD or ST whose `imm` is at or beyond `MEM_WORDS` (R44, D5). Raised by LD's read and ST's write of memory; with
  `MEM_WORDS` = 4096 never. Safe: the spec asks a model to refuse it. -/
  | addressBeyondMemory
  deriving DecidableEq, Repr

/-- The outcome of serving an instruction or of a tick. -/
abbrev Result := Host.Outcome State Fault Refusal

/-- The reset patterns of the registers: `F[i]` is the binary32 encoding of i (R13). -/
def resetRegs : Vector Word 16 :=
  #v[0x00000000, 0x3F800000, 0x40000000, 0x40400000, 0x40800000, 0x40A00000, 0x40C00000, 0x40E00000,
     0x41000000, 0x41100000, 0x41200000, 0x41300000, 0x41400000, 0x41500000, 0x41600000, 0x41700000]

/-- Every field at its reset value (R160), under configuration `p`. -/
def State.resetOf (p : Params) : State :=
  { cfg := p
    regs := resetRegs
    pc := 0
    cc := p.ccReset
    haltReached := false
    mem := p.memInit
    queue := []
    pools := p.nrUnits.map fun n => List.replicate n FunctionalUnit.idle
    busy := Vector.replicate 16 none
    instrTrace := []
    unitTrace := []
    station := .fetch }

/-- The machine right after reset, under the parameters of `Params.default` (log 2, log 3). -/
def State.reset : State := State.resetOf Params.default

end Sys2Proof.Machine
end

