-- ==== Sys2Proof/Machine/Ops.lean ====
section
/-! DEFINITION. The named operations over memory, registers, queue records and units. There is no operation for taking
an exception and none for returning from one: the hardware has neither (60_exceptions.md R140, R144). -/

namespace Sys2Proof

/-! Memory (20_memory.md R41). -/

/-- What a word that is not listed reads as (log 3). -/
def Memory.unlisted : Word := 0

/-- `M[a]` (R41). -/
def Memory.read : Memory → Nat → Word
  | [], _ => Memory.unlisted
  | (b, v) :: rest, a => if b = a then v else Memory.read rest a

/-- Set `M[a]` to `v` and no other word (R41), keeping the canonical form. -/
def Memory.write : Memory → Nat → Word → Memory
  | [], a, v => if v = Memory.unlisted then [] else [(a, v)]
  | (b, w) :: rest, a, v =>
    if a < b then (if v = Memory.unlisted then (b, w) :: rest else (a, v) :: (b, w) :: rest)
    else if a = b then (if v = Memory.unlisted then rest else (a, v) :: rest)
    else (b, w) :: Memory.write rest a v

/-- The canonical form: addresses strictly rising, and no entry equal to what an unlisted word reads as, so that equal
memories are equal lists. -/
def Memory.wf (m : Memory) : Bool :=
  decide (m.Pairwise fun c d => c.1 < d.1) && m.all fun c => decide (c.2 ≠ Memory.unlisted)

end Sys2Proof

namespace Sys2Proof.Machine

/-- "Writing `t < cc` for a timestamp t means t is set and its value is less than cc" (00_scope.md R9). -/
def before (t : Option Nat) (cc : Nat) : Bool :=
  match t with
  | some v => decide (v < cc)
  | none => false

/-- Go on with `f` from the next state; a fault or a refusal ends it. -/
def andThen (o : Result) (f : State → Result) : Result :=
  match o with
  | .next s => f s
  | .fault e => .fault e
  | .refused e => .refused e

/-! Registers and memory of a state. -/

/-- `F[r]`. No register is hard-wired (R12). -/
def State.reg (s : State) (r : Reg) : Word := s.regs[r]

/-- `F[r] <- v`. -/
def State.setReg (s : State) (r : Reg) (v : Word) : State := { s with regs := s.regs.set r v }

/-- `MemRead(a, 1)` (R41); an address at or beyond `MEM_WORDS` has no meaning and is refused (R44). -/
def State.memRead (s : State) (a : Nat) : Except Refusal Word :=
  if a < s.cfg.memWords then .ok (s.mem.read a) else .error .addressBeyondMemory

/-- `MemWrite(a, 1, v)` (R41); an address at or beyond `MEM_WORDS` has no meaning and is refused (R44). -/
def State.memWrite (s : State) (a : Nat) (v : Word) : Except Refusal State :=
  if a < s.cfg.memWords then .ok { s with mem := s.mem.write a v } else .error .addressBeyondMemory

/-! The scoreboard table (R24): `busy_type` and `busy_idx` are always read and written together. -/

/-- `busy[r]`. -/
def State.owner (s : State) (r : Reg) : Option UnitId := s.busy[r]

/-- `busy[r] <- o`. -/
def State.setOwner (s : State) (r : Reg) (o : Option UnitId) : State := { s with busy := s.busy.set r o }

/-! Units (R21, R22). -/

/-- `U[k][j]`; a unit that does not exist reads as one that is idle. -/
def State.unit (s : State) (u : UnitId) : FunctionalUnit :=
  ((s.pools.get u.kind)[u.idx]?).getD FunctionalUnit.idle

/-- Change unit `u` by `f` and no other. -/
def State.updateUnit (s : State) (u : UnitId) (f : FunctionalUnit → FunctionalUnit) : State :=
  { s with pools := s.pools.update u.kind fun us => us.modify u.idx f }

/-- Every unit, in pool order (R62): by kind in the order of `Kind.all`, in a pool by ascending index. -/
def State.unitIds (s : State) : List UnitId :=
  Kind.all.flatMap fun k => (List.range (s.pools.get k).length).map fun j => ⟨k, j⟩

/-! Queue records (R18, R19). -/

/-- `u.inst`: the queue record that unit `u` serves (R9). -/
def State.inst (s : State) (u : UnitId) : Option InstrRecord :=
  (s.unit u).slot.bind fun n => s.queue[n]?

/-- Change the record in slot `n` by `f` and no other. -/
def State.updateRecord (s : State) (n : Nat) (f : InstrRecord → InstrRecord) : State :=
  { s with queue := s.queue.modify n f }

/-- Change the record that unit `u` serves by `f`. -/
def State.updateInst (s : State) (u : UnitId) (f : InstrRecord → InstrRecord) : State :=
  match (s.unit u).slot with
  | some n => s.updateRecord n f
  | none => s

/-- The executing instruction that a record holds, read off its decoded fields; none where the opcode has no kind
(R53). -/
def InstrRecord.instr (m : OpcodeMap) (r : InstrRecord) : Option Instr :=
  (m.kindOf r.opcode).map fun k => .ofKind k r.dst r.src0 r.src1 r.imm

/-! The rest of the state. -/

/-- Stand at place `st` of the tick (log 6). -/
def State.at (s : State) (st : Station) : State := { s with station := st }

/-- `done` (R64): the halt word has been met and every occupied slot has its write timestamp. -/
def State.done (s : State) : Bool := s.haltReached && s.queue.all fun r => r.write.isSome

/-- The instruction trace's record of an instruction (R152). -/
def InstrRecord.traceRecord (m : OpcodeMap) (r : InstrRecord) : TraceRecord :=
  { word := r.word, pidx := r.pidx, kind := m.kindOf r.opcode, unit := r.unit, issue := r.issue, read := r.read
    exec := r.exec, write := r.write }

/-- Enter `t` under its program index (R152, D25): the trace is a map, listed in ascending index. -/
def insertTrace (t : TraceRecord) : List TraceRecord → List TraceRecord
  | [] => [t]
  | x :: rest =>
    if t.pidx < x.pidx then t :: x :: rest
    else if t.pidx = x.pidx then t :: rest
    else x :: insertTrace t rest

/-- Enter the record of the instruction that unit `u` serves into the instruction trace. -/
def State.logInst (s : State) (u : UnitId) : State :=
  match s.inst u with
  | some r => { s with instrTrace := insertTrace (r.traceRecord s.cfg.opcodes) s.instrTrace }
  | none => s

/-- The unit trace's record of unit `u` in the current tick (R153). -/
def State.snapshot (s : State) (u : UnitId) : UnitSnapshot :=
  let f := s.unit u
  { cc := s.cc, unit := u, dst := f.dst, src0 := f.src0, src1 := f.src1, q0 := f.q0, q1 := f.q1
    ready0 := f.ready0, ready1 := f.ready1 }

/-- `emit_unit_trace` (R60, R153): one record if the configured unit is busy. -/
def State.emitUnitTrace (s : State) : State :=
  if (s.unit s.cfg.traceUnit).busy then { s with unitTrace := s.unitTrace ++ [s.snapshot s.cfg.traceUnit] } else s

/-- The end of a tick: the unit trace, then `cc <- cc + 1` (R60, R61). -/
def State.endTick (s : State) : State :=
  { s.emitUnitTrace with cc := s.cc + 1, station := .fetch }

/-- Reset asserted (R29, R160, R162): every field at its reset value, the configuration kept. -/
def State.assertReset (s : State) : State := State.resetOf s.cfg

end Sys2Proof.Machine
end

