-- ==== Sys2Proof/Machine/Flags.lean ====
section
/-! DEFINITION. The hazard flags of the units: readiness and producer references, the WAW flag and the claims of the
scoreboard table (42_issue.md R82, R83; 43_read_operands.md R91, R92; 45_writeback.md R112; 46_clear_busy.md R115). The
hardware has no condition codes and no status flags (10_state.md R27). -/

namespace Sys2Proof.Machine

/-- Source sampling (R82): the unit records the three register fields and, for each source, ready iff the scoreboard
shows no pending producer, else the producer. -/
def State.sampleSources (s : State) (u : UnitId) (dst src0 src1 : Reg) : State :=
  s.updateUnit u fun f =>
    { f with
      src0 := some src0, src1 := some src1, dst := some dst
      ready0 := (s.owner src0).isNone, q0 := s.owner src0
      ready1 := (s.owner src1).isNone, q1 := s.owner src1 }

/-- Set or clear the WAW flag of unit `u`. -/
def State.setWaw (s : State) (u : UnitId) (b : Bool) : State := s.updateUnit u fun f => { f with waw := b }

/-- Destination claim or WAW flag (R83), for every kind but ST. -/
def State.claimDestination (s : State) (u : UnitId) (dst : Reg) : State :=
  if (s.owner dst).isSome then s.setWaw u true else (s.setWaw u false).setOwner dst (some u)

/-- WAW claim (R91): a flagged unit takes its destination's entry as soon as it is free. -/
def State.wawClaim (s : State) (u : UnitId) (dst : Reg) : State :=
  if (s.unit u).waw && (s.owner dst).isNone then s.setOwner dst (some u) else s

/-- `sources_ok` of every kind but ST (R92). -/
def State.bothReady (s : State) (u : UnitId) : Bool := (s.unit u).ready0 && (s.unit u).ready1

/-- `sources_ok` of ST: only the register whose value is stored (R92). -/
def State.storeReady (s : State) (u : UnitId) : Bool := (s.unit u).ready1

/-- `dest_ok` of every kind but ST (R92): not flagged, or the entry is this unit's. -/
def State.destinationOk (s : State) (u : UnitId) (dst : Reg) : Bool :=
  !(s.unit u).waw || decide (s.owner dst = some u)

/-- Scoreboard clear (R112): only if the entry still names this unit. -/
def State.releaseDestination (s : State) (u : UnitId) (dst : Reg) : State :=
  if s.owner dst = some u then s.setOwner dst none else s

/-- Readiness refresh (R115): a source without a pending producer becomes ready and its producer reference is
cleared. The test is on the register, not on the recorded producer (R116), and a flag never falls (R118). -/
def State.refreshReadiness (s : State) (u : UnitId) (src0 src1 : Reg) : State :=
  s.updateUnit u fun f =>
    { f with
      ready0 := f.ready0 || (s.owner src0).isNone
      q0 := if (s.owner src0).isNone then none else f.q0
      ready1 := f.ready1 || (s.owner src1).isNone
      q1 := if (s.owner src1).isNone then none else f.q1 }

end Sys2Proof.Machine
end

