-- ==== Sys2Proof/Machine/Operands.lean ====
section
/-! DEFINITION. The operand forms (30_encoding.md R52): a register number, and the absolute word address of LD and ST.
There is no other form. -/

namespace Sys2Proof.Machine

/-- The effective address of LD and ST: the immediate, zero-extended, not scaled and not added to anything (R52,
R130). -/
def effectiveAddress (imm : Addr) : Nat := imm.toNat

/-- A register operand's value as it stands now. -/
def State.regOperand (s : State) (r : Reg) : Except Refusal Word := .ok (s.reg r)

/-- The two register operands of an arithmetic instruction under its function (R102). -/
def State.regOperands (s : State) (f : Word → Word → Word) (src0 src1 : Reg) : Except Refusal Word :=
  .ok (f (s.reg src0) (s.reg src1))

/-- The memory operand of LD: the whole word at the effective address, unchanged (R120, R130, R133). -/
def State.memOperand (s : State) (imm : Addr) : Except Refusal Word := s.memRead (effectiveAddress imm)

end Sys2Proof.Machine
end

