-- ==== Sys2Proof/Machine/Queue.lean ====
section
/-! DEFINITION. The instruction queue: compaction and fetching a word (41_queue_fetch.md R71 to R75). -/

namespace Sys2Proof.Machine

/-- A record that compaction keeps: its write timestamp is unset (R72). -/
def InstrRecord.kept (r : InstrRecord) : Bool := r.write.isNone

/-- The slot to which compaction moves the record of slot `n`: the number of kept records before it (R73). -/
def keptBefore (queue : List InstrRecord) (n : Nat) : Nat := (queue.take n).countP InstrRecord.kept

/-- A busy unit's back-reference after compaction; a unit that is not busy is not touched (R73). -/
def FunctionalUnit.remap (queue : List InstrRecord) (f : FunctionalUnit) : FunctionalUnit :=
  if f.busy then { f with slot := f.slot.map (keptBefore queue) } else f

/-- `compact()` (R72, R73): written records are dropped, the rest close up in order, and the units' back-references
follow. -/
def State.compact (s : State) : State :=
  { s with
    queue := s.queue.filter InstrRecord.kept
    pools := s.pools.map fun us => us.map (FunctionalUnit.remap s.queue) }

/-- `new_instruction(w, a)` (R74): the decoded fields, no timestamp, no unit, program index `a` (R75). -/
def newRecord (w : Word) (a : Nat) : InstrRecord :=
  let f := decodeFields w
  { word := w, opcode := f.opcode, dst := f.dst, src0 := f.src0, src1 := f.src1, imm := f.imm
    issue := none, read := none, exec := none, write := none, unit := none, pidx := a }

/-- `fetch(w)` and the advance of `pc` (R70, R71): compaction, then the word takes the leftmost free slot if there is
one and `pc` moves on; otherwise the same address is tried again in the next tick (R76). -/
def State.fetchWord (w : Word) (s : State) : State :=
  let c := s.compact
  if c.queue.length < queueSlots then { c with queue := c.queue ++ [newRecord w s.pc], pc := s.pc + 1 } else c

end Sys2Proof.Machine
end

