-- ==== Sys2Proof/Machine/Stages.lean ====
section
/-! DEFINITION. What the executing instructions share at each stage of their path (47_arith.md R128, 48_loadstore.md
R132): issue (R81 to R84), read-operands (R90 to R92), execute (R100 to R104), write-back (R110 to R112). Each
instruction's own definition (Machine/Arith.lean, Machine/LoadStore.lean) says which of these it uses and what it adds. -/

namespace Sys2Proof.Machine

/-! Issue. -/

/-- `free_unit(k)` (R81): the unit of pool k with the lowest index that is not busy. -/
def State.freeUnit (s : State) (k : Kind) : Option UnitId :=
  ((s.pools.get k).findIdx? fun f => !f.busy).map fun j => ⟨k, j⟩

/-- Bookkeeping of issue (R84): the unit becomes busy and is tied to the instruction in slot `n`, whose issue timestamp
is the current cycle. -/
def State.occupy (s : State) (u : UnitId) (n : Nat) : State :=
  (s.updateUnit u fun f => { f with busy := true, slot := some n, result := none, remaining := 0 }).updateRecord n
    fun r => { r with unit := some u.idx, issue := some s.cc }

/-- `issue_to` (R82, R83, R84 in that order) for an instruction that writes register `dst`. -/
def State.issueWriter (s : State) (u : UnitId) (n : Nat) (dst src0 src1 : Reg) : State :=
  ((s.sampleSources u dst src0 src1).claimDestination u dst).occupy u n

/-- `issue_to` for a store (R83): no destination is claimed and no WAW flag is set. -/
def State.issueStore (s : State) (u : UnitId) (n : Nat) (dst src0 src1 : Reg) : State :=
  ((s.sampleSources u dst src0 src1).setWaw u false).occupy u n

/-! Read-operands. -/

/-- The effect of a successful read (R92): the read timestamp, and the counter at latency minus one. -/
def State.startReading (s : State) (u : UnitId) : State :=
  (s.updateInst u fun r => { r with read := some s.cc }).updateUnit u
    fun f => { f with remaining := s.cfg.delay.get u.kind - 1 }

/-- The read-operands visit of unit `u` (R90): skipped if its instruction has read; else `claim` (R91), and the read if
the instruction was issued in an earlier tick and `ok` holds after the claim (R92). -/
def State.readStage (s : State) (u : UnitId) (claim : State → State) (ok : State → Bool) : Result :=
  match s.inst u with
  | none => .fault .unitWithoutInstruction
  | some r =>
    if r.read.isSome then .next s
    else
      let c := claim s
      if before r.issue s.cc && ok c then .next (c.startReading u) else .next c

/-- The read-operands visit for an instruction that writes register `dst` (R91, R92). -/
def State.readWriter (s : State) (u : UnitId) (dst : Reg) : Result :=
  s.readStage u (fun t => t.wawClaim u dst) fun t => t.bothReady u && t.destinationOk u dst

/-- The read-operands visit for a store: only the second source, no destination (R92). -/
def State.readStore (s : State) (u : UnitId) : Result := s.readStage u (fun t => t) fun t => t.storeReady u

/-! Execute. -/

/-- Compute once (R102): the result is staged in the first execute cycle and never computed again. -/
def State.stageResult (s : State) (u : UnitId) (value : Except Refusal Word) : Except Refusal State :=
  match (s.unit u).result with
  | some _ => .ok s
  | none => value.map fun v => s.updateUnit u fun f => { f with result := some v }

/-- Count down (R101). -/
def State.countDown (s : State) (u : UnitId) : State :=
  s.updateUnit u fun f => { f with remaining := f.remaining - 1 }

/-- The execute-complete timestamp (R104). -/
def State.stampExec (s : State) (u : UnitId) : State := s.updateInst u fun r => { r with exec := some s.cc }

/-- The execute visit of unit `u` (R100): the guard, compute once, count down, and `finish` when the counter reaches
zero. -/
def State.executeStage (s : State) (u : UnitId) (value : Except Refusal Word) (finish : State → Result) : Result :=
  match s.inst u with
  | none => .fault .unitWithoutInstruction
  | some r =>
    if before r.read s.cc && decide (0 < (s.unit u).remaining) then
      match s.stageResult u value with
      | .error e => .refused e
      | .ok t =>
        let c := t.countDown u
        if (c.unit u).remaining = 0 then finish c else .next c
    else .next s

/-- The execute visit for an instruction that writes a register: completion is the timestamp alone (R104). -/
def State.executeWriter (s : State) (u : UnitId) (value : Except Refusal Word) : Result :=
  s.executeStage u value fun t => .next (t.stampExec u)

/-- A load unit that holds back a store to `imm` issued at `issued` (R103): busy, the same address, issued before the
store, and its execute not yet complete. -/
def State.collides (s : State) (imm : Addr) (issued : Option Nat) (f : FunctionalUnit) : Bool :=
  f.busy &&
    match f.slot.bind fun n => s.queue[n]? with
    | some l =>
      l.imm == imm && l.exec.isNone &&
        match issued with
        | some t => before l.issue t
        | none => false
    | none => false

/-- Store bump (R103): the counter rises by one for each colliding load. -/
def State.storeBump (s : State) (u : UnitId) (imm : Addr) : State :=
  let n := (s.pools.get .ld).countP (s.collides imm ((s.inst u).bind InstrRecord.issue))
  s.updateUnit u fun f => { f with remaining := f.remaining + n }

/-- Completion of a store after the bump check (R103, R104): if the counter is still zero the staged result goes to
memory and the execute-complete timestamp is set. -/
def State.finishStore (s : State) (u : UnitId) (imm : Addr) : Result :=
  let b := s.storeBump u imm
  if (b.unit u).remaining = 0 then
    match (b.unit u).result with
    | none => .fault .unitWithoutResult
    | some v =>
      match b.memWrite (effectiveAddress imm) v with
      | .error e => .refused e
      | .ok t => .next (t.stampExec u)
  else .next b

/-! Write-back. -/

/-- The write timestamp (R111), and the record's entry into the instruction trace (R152, D25). -/
def State.stampWrite (s : State) (u : UnitId) : State :=
  (s.updateInst u fun r => { r with write := some s.cc }).logInst u

/-- Full reset: every dynamic field back to its reset value (R111). -/
def State.resetUnit (s : State) (u : UnitId) : State := s.updateUnit u fun _ => FunctionalUnit.idle

/-- The write-back visit of unit `u` (R110): `commit` iff the execute-complete timestamp is set and earlier than this
cycle and the counter is zero. -/
def State.writeBackStage (s : State) (u : UnitId) (commit : State → Result) : Result :=
  match s.inst u with
  | none => .fault .unitWithoutInstruction
  | some r => if before r.exec s.cc && decide ((s.unit u).remaining = 0) then commit s else .next s

/-- Commit to register `dst` (R111, R112): the register, the timestamp, the scoreboard entry, the reset of the unit. -/
def State.commitRegister (s : State) (u : UnitId) (dst : Reg) : Result :=
  match (s.unit u).result with
  | none => .fault .unitWithoutResult
  | some v => .next ((((s.setReg dst v).stampWrite u).releaseDestination u dst).resetUnit u)

/-- The write-back visit for an instruction that writes register `dst`. -/
def State.writeBackRegister (s : State) (u : UnitId) (dst : Reg) : Result :=
  s.writeBackStage u fun t => t.commitRegister u dst

/-- The write-back visit for a store: no register and no scoreboard entry (R111, R112). -/
def State.writeBackStore (s : State) (u : UnitId) : Result :=
  s.writeBackStage u fun t => .next ((t.stampWrite u).resetUnit u)

end Sys2Proof.Machine
end

