-- ==== Sys2Proof/Machine/Arith.lean ====
section
/-! DEFINITION. The arithmetic instructions ADD, SUB, MUL, DIV (47_arith.md R120 to R128): the four functions, and what
each instruction does at each place of the tick. None writes a flag and none raises an exception (R126). -/

namespace Sys2Proof.Machine

/-- `fadd` (R121). -/
def fadd : Numerics → Word → Word → Word
  | .binary32 => Binary32.add
  | .supplied => Config.fadd

/-- `fsub` (R121): src0 minus src1. -/
def fsub : Numerics → Word → Word → Word
  | .binary32 => Binary32.sub
  | .supplied => Config.fsub

/-- `fmul` (R121). -/
def fmul : Numerics → Word → Word → Word
  | .binary32 => Binary32.mul
  | .supplied => Config.fmul

/-- `fdiv` (R121): src0 the dividend, src1 the divisor. -/
def fdiv : Numerics → Word → Word → Word
  | .binary32 => Binary32.div
  | .supplied => Config.fdiv

/-- ADD (R122): `F[dst] <- fadd(F[src0], F[src1])`. -/
def execAdd (dst src0 src1 : Reg) (imm : Addr) (s : State) : Result :=
  match s.station with
  | .fetch => .next (s.fetchWord (encodeWith s.cfg.opcodes (.add dst src0 src1 imm)))
  | .issue u n => .next (s.issueWriter u n dst src0 src1)
  | .readOperands u => s.readWriter u dst
  | .execute u => s.executeWriter u (s.regOperands (fadd s.cfg.numerics) src0 src1)
  | .writeBack u => s.writeBackRegister u dst
  | .clearBusy u => .next (s.refreshReadiness u src0 src1)

/-- SUB (R123): `F[dst] <- fsub(F[src0], F[src1])`. -/
def execSub (dst src0 src1 : Reg) (imm : Addr) (s : State) : Result :=
  match s.station with
  | .fetch => .next (s.fetchWord (encodeWith s.cfg.opcodes (.sub dst src0 src1 imm)))
  | .issue u n => .next (s.issueWriter u n dst src0 src1)
  | .readOperands u => s.readWriter u dst
  | .execute u => s.executeWriter u (s.regOperands (fsub s.cfg.numerics) src0 src1)
  | .writeBack u => s.writeBackRegister u dst
  | .clearBusy u => .next (s.refreshReadiness u src0 src1)

/-- MUL (R124): `F[dst] <- fmul(F[src0], F[src1])`. -/
def execMul (dst src0 src1 : Reg) (imm : Addr) (s : State) : Result :=
  match s.station with
  | .fetch => .next (s.fetchWord (encodeWith s.cfg.opcodes (.mul dst src0 src1 imm)))
  | .issue u n => .next (s.issueWriter u n dst src0 src1)
  | .readOperands u => s.readWriter u dst
  | .execute u => s.executeWriter u (s.regOperands (fmul s.cfg.numerics) src0 src1)
  | .writeBack u => s.writeBackRegister u dst
  | .clearBusy u => .next (s.refreshReadiness u src0 src1)

/-- DIV (R125): `F[dst] <- fdiv(F[src0], F[src1])`. Division by zero neither traps nor stalls (R126). -/
def execDiv (dst src0 src1 : Reg) (imm : Addr) (s : State) : Result :=
  match s.station with
  | .fetch => .next (s.fetchWord (encodeWith s.cfg.opcodes (.div dst src0 src1 imm)))
  | .issue u n => .next (s.issueWriter u n dst src0 src1)
  | .readOperands u => s.readWriter u dst
  | .execute u => s.executeWriter u (s.regOperands (fdiv s.cfg.numerics) src0 src1)
  | .writeBack u => s.writeBackRegister u dst
  | .clearBusy u => .next (s.refreshReadiness u src0 src1)

end Sys2Proof.Machine
end

