-- ==== Sys2Proof/Machine/Halt.lean ====
section
/-! DEFINITION. HALT (49_halt.md R135). -/

namespace Sys2Proof.Machine

/-- HALT (R135): `halt_reached <- 1` and nothing else. `pc` stays at its address, the word does not enter the queue and
the queue is not compacted (R70). The fetch cursor is the only place where it is met: no unit ever serves it, so the
place in the tick is not consulted (log 6). -/
def execHalt (s : State) : Result := .next { s with haltReached := true }

end Sys2Proof.Machine
end

