-- ==== Sys2Proof/Machine/LoadStore.lean ====
section
/-! DEFINITION. The memory instructions LD and ST (48_loadstore.md R130 to R134). -/

namespace Sys2Proof.Machine

/-- LD (R130): `F[dst] <- M[imm]`, the word as memory stands in the first execute cycle. It waits for both its source
fields although it uses neither (R54, D12). -/
def execLd (dst src0 src1 : Reg) (imm : Addr) (s : State) : Result :=
  match s.station with
  | .fetch => .next (s.fetchWord (encodeWith s.cfg.opcodes (.ld dst src0 src1 imm)))
  | .issue u n => .next (s.issueWriter u n dst src0 src1)
  | .readOperands u => s.readWriter u dst
  | .execute u => s.executeWriter u (s.memOperand imm)
  | .writeBack u => s.writeBackRegister u dst
  | .clearBusy u => .next (s.refreshReadiness u src0 src1)

/-- ST (R131): `M[imm] <- F[src1]`, the value staged in the first execute cycle and written at completion, once no
earlier-issued load of the same address is incomplete (R103). It claims no destination, waits for `src1` alone, and its
write-back writes no register. -/
def execSt (dst src0 src1 : Reg) (imm : Addr) (s : State) : Result :=
  match s.station with
  | .fetch => .next (s.fetchWord (encodeWith s.cfg.opcodes (.st dst src0 src1 imm)))
  | .issue u n => .next (s.issueStore u n dst src0 src1)
  | .readOperands u => s.readStore u
  | .execute u => s.executeStage u (s.regOperand src1) fun t => t.finishStore u imm
  | .writeBack u => s.writeBackStore u
  | .clearBusy u => .next (s.refreshReadiness u src0 src1)

end Sys2Proof.Machine
end

