-- ==== Sys2Proof/Machine/Dispatch.lean ====
section
/-! DEFINITION. The meaning of every instruction: what it does at the place of the tick where the state stands. -/

namespace Sys2Proof.Machine

def exec (i : Instr) (s : State) : Host.Outcome State Fault Refusal :=
  match i with
  | .ld dst src0 src1 imm => Sys2Proof.Machine.execLd dst src0 src1 imm s
  | .st dst src0 src1 imm => Sys2Proof.Machine.execSt dst src0 src1 imm s
  | .add dst src0 src1 imm => Sys2Proof.Machine.execAdd dst src0 src1 imm s
  | .sub dst src0 src1 imm => Sys2Proof.Machine.execSub dst src0 src1 imm s
  | .mul dst src0 src1 imm => Sys2Proof.Machine.execMul dst src0 src1 imm s
  | .div dst src0 src1 imm => Sys2Proof.Machine.execDiv dst src0 src1 imm s
  | .halt => Sys2Proof.Machine.execHalt s

end Sys2Proof.Machine
end

