-- ==== Sys2Proof/Machine/Tick.lean ====
section
/-! DEFINITION. The phases of a tick (40_pipeline_controller.md R60 to R63). Every visit of a phase is one `exec` of the
instruction concerned, at the station of the visit. -/

namespace Sys2Proof.Machine

/-- The fetch phase (R70): nothing once the halt word has been met; else the word at the cursor, as memory holds it now
(R49). A word that is no instruction enters the queue like any other (R55, R137). -/
def State.fetchPhase (s : State) : Result :=
  if s.haltReached then .next s
  else if s.cfg.memWords ≤ s.pc then .fault .fetchPastEnd
  else
    let w := s.mem.read s.pc
    match decodeWith s.cfg.opcodes w with
    | .ok i => exec i (s.at .fetch)
    | .error _ => .next (s.fetchWord w)

/-- The unit and the instruction with which a queued record would issue now: its opcode has a kind and that kind's pool
has a free unit (R80, R81). -/
def State.issueChoice (s : State) (r : InstrRecord) : Option (UnitId × Instr) :=
  match s.cfg.opcodes.kindOf r.opcode with
  | none => none
  | some k =>
    match s.freeUnit k with
    | none => none
    | some u => some (u, .ofKind k r.dst r.src0 r.src1 r.imm)

/-- The scan of the issue phase from slot `n` on (R80): at most one instruction issues; under `in_order` the first
unissued one decides. -/
def State.issueScan (s : State) (n : Nat) : List InstrRecord → Result
  | [] => .next s
  | r :: rest =>
    if r.issue.isSome then s.issueScan (n + 1) rest
    else
      match s.issueChoice r with
      | some (u, i) => exec i (s.at (.issue u n))
      | none =>
        match s.cfg.policy with
        | .inOrder => .next s
        | .firstFit => s.issueScan (n + 1) rest

/-- The issue phase (R80). -/
def State.issuePhase (s : State) : Result := s.issueScan 0 s.queue

/-- The visit of unit `u` at station `st u`: units that are not busy are passed over, a busy one is served as its
instruction says (R90, R100, R110, R115). -/
def State.serve (st : UnitId → Station) (u : UnitId) (s : State) : Result :=
  if (s.unit u).busy then
    match (s.inst u).bind (InstrRecord.instr s.cfg.opcodes) with
    | none => .fault .unitWithoutInstruction
    | some i => exec i (s.at (st u))
  else .next s

/-- The visits of a list of units, one after the other; a later visit sees the writes of the earlier ones (R62). -/
def State.serveAll (st : UnitId → Station) : List UnitId → State → Result
  | [], s => .next s
  | u :: rest, s => andThen (s.serve st u) (State.serveAll st rest)

/-- A phase that visits every unit, in pool order (R62). -/
def State.unitPhase (st : UnitId → Station) (s : State) : Result := State.serveAll st s.unitIds s

/-- The part of a tick after the fetch phase (R60). -/
def State.afterFetch (s : State) : Result :=
  andThen (andThen (andThen (andThen (andThen s.issuePhase
    (State.unitPhase .readOperands))
    (State.unitPhase .execute))
    (State.unitPhase .writeBack))
    (State.unitPhase .clearBusy))
    fun t => .next t.endTick

/-- One tick (R60): fetch, issue, read-operands, execute, write-back, clear-busy, then the unit trace and the cycle
counter. -/
def State.tick (s : State) : Result := andThen s.fetchPhase State.afterFetch

/-- The table's word `w`, of `nbits` bits, placed at the fetch cursor. Fetching also needs the halt flag clear (R70). -/
def State.placeWord (s : State) (nbits w : Nat) : State :=
  { s with mem := s.mem.write s.pc (BitVec.ofNat 32 (w % 2 ^ nbits)), haltReached := false }

end Sys2Proof.Machine
end

