-- ==== Sys2Proof/Machine/Step.lean ====
section
/-! DEFINITION. One step: one rising clock edge with reset released (10_state.md R29). -/

namespace Sys2Proof.Machine

/-- One clock edge: a configuration outside the legal ranges is refused (R178, R8); with `done` the state holds (R29,
R64); otherwise one tick is performed (R60). -/
def step (s : State) : Host.Outcome State Fault Refusal :=
  if s.cfg.latenciesLegal = false then .refused .illegalLatency
  else if s.cfg.opcodes.legal = false then .refused .illegalOpcodes
  else if s.done then .next s
  else s.tick

/-- `s` with the table's word `w`, of `nbits` bits, where `step` fetches its next instruction: the load of one word of
the program, which the hardware leaves to the host (R44, R165; log 3). -/
def State.withFetchWord (s : State) (nbits w : Nat) : State := s.placeWord nbits w

end Sys2Proof.Machine
end

