-- ==== Sys2Proof/Safety.lean ====
section
/-! DEFINITION. The terms in which claims are made: the invariants of a safe run between ticks (10_state.md R20, R22, R23,
R25; 44_execute.md R106; 45_writeback.md R113; 60_exceptions.md R152), the situations in which an instruction is served,
and the value of a binary32 pattern. -/

namespace Sys2Proof.Machine

/-! ## Invariants between ticks -/

/-- A later timestamp is set only after the earlier one, and is strictly greater (R20(a)). -/
abbrev StrictlyAfter (earlier later : Option Nat) : Prop := ∀ t ∈ later, ∃ e ∈ earlier, e < t

/-- A set timestamp lies before cycle `cc`. -/
abbrev InThePast (t : Option Nat) (cc : Nat) : Prop := ∀ v ∈ t, v < cc

/-- R20(a): the timestamps of a record are set in the order issue, read, exec, write, strictly increasing, and all of them
in earlier cycles. -/
abbrev InstrRecord.StampsOrdered (r : InstrRecord) (cc : Nat) : Prop :=
  StrictlyAfter r.issue r.read ∧ StrictlyAfter r.read r.exec ∧ StrictlyAfter r.exec r.write ∧
    InThePast r.issue cc ∧ InThePast r.read cc ∧ InThePast r.exec cc ∧ InThePast r.write cc

/-- A record's fields are those its word decodes to (R19, R51). -/
abbrev InstrRecord.FieldsDecoded (r : InstrRecord) : Prop :=
  (⟨r.opcode, r.dst, r.src0, r.src1, r.imm⟩ : Fields) = decodeFields r.word

/-- The memory lists words that exist, in canonical form (R17). -/
abbrev State.MemoryOk (s : State) : Prop := s.mem.wf = true ∧ ∀ c ∈ s.mem, c.1 < s.cfg.memWords

/-- The queue and the cursor (R14, R18, R20(c), R20(d), R20(e)): at most 16 records, in fetch order, all fetched from below
the cursor, and the cursor inside memory or at its end. -/
abbrev State.QueueOk (s : State) : Prop :=
  s.queue.length ≤ queueSlots ∧ s.pc ≤ s.cfg.memWords ∧ s.queue.Pairwise (fun a b => a.pidx < b.pidx) ∧
    ∀ r ∈ s.queue, r.pidx < s.pc ∧ r.FieldsDecoded ∧ r.StampsOrdered s.cc ∧ r.issue.isSome = r.unit.isSome

/-- Pools have the configured sizes (R21), and a unit that is not busy has every dynamic field at its reset value
(R22). -/
abbrev State.PoolsOk (s : State) : Prop :=
  (∀ k ∈ Kind.all, (s.pools.get k).length = s.cfg.nrUnits.get k) ∧
    ∀ u ∈ s.unitIds, (s.unit u).busy = false → s.unit u = FunctionalUnit.idle

/-- What a busy unit and the record it serves have in common (R22, R23(b)). -/
abbrev State.Serves (s : State) (u : UnitId) (r : InstrRecord) : Prop :=
  r.issue.isSome ∧ r.write = none ∧ r.unit = some u.idx ∧ s.cfg.opcodes.kindOf r.opcode = some u.kind ∧
    (s.unit u).dst = some r.dst ∧ (s.unit u).src0 = some r.src0 ∧ (s.unit u).src1 = some r.src1

/-- How far a busy unit has come, by its counter and its staged result (R92, R100 to R104): before the read both are
reset; between read and completion the counter is positive; after completion it is zero and the result is staged. -/
abbrev State.Progress (s : State) (u : UnitId) (r : InstrRecord) : Prop :=
  (r.read = none → (s.unit u).remaining = 0 ∧ (s.unit u).result = none) ∧
    (r.read.isSome → r.exec = none → 0 < (s.unit u).remaining) ∧
    (r.exec.isSome → (s.unit u).remaining = 0 ∧ (s.unit u).result.isSome)

/-- R23: a busy unit serves a queued, issued, unwritten instruction of its kind, and every such instruction is served. -/
abbrev State.LinksOk (s : State) : Prop :=
  (∀ u ∈ s.unitIds, (s.unit u).busy = true → ∃ r ∈ s.inst u, s.Serves u r ∧ s.Progress u r) ∧
    ∀ n ∈ List.range s.queue.length, ∀ r ∈ s.queue[n]?, r.issue.isSome → r.write = none →
      ∃ u ∈ s.unitIds, (s.unit u).busy = true ∧ (s.unit u).slot = some n

/-- R25: an entry of the scoreboard names a busy unit, not a store, whose destination is that register. -/
abbrev State.ScoreboardOk (s : State) : Prop :=
  ∀ r : Reg, ∀ v ∈ s.owner r, (s.unit v).busy = true ∧ v.kind ≠ .st ∧ (s.unit v).dst = some r

/-- R83, R91, R92, R112: a busy unit that writes a register owns its entry unless it is WAW-flagged and has not read; a
store is never flagged. -/
abbrev State.OwnershipOk (s : State) : Prop :=
  ∀ u ∈ s.unitIds, (s.unit u).busy = true →
    if u.kind = .st then (s.unit u).waw = false
    else ∀ r ∈ s.inst u, (s.unit u).waw = false ∨ r.read.isSome → s.owner r.dst = some u

/-- R82, R115, R117: a busy unit's flag is 0 only while the register has a pending producer, and a producer is recorded
exactly while the flag is 0. -/
abbrev State.ReadinessOk (s : State) : Prop :=
  ∀ u ∈ s.unitIds, (s.unit u).busy = true →
    (s.unit u).q0.isSome = !(s.unit u).ready0 ∧ (s.unit u).q1.isSome = !(s.unit u).ready1 ∧
      ((s.unit u).ready0 = false → ∃ r ∈ (s.unit u).src0, (s.owner r).isSome) ∧
      ((s.unit u).ready1 = false → ∃ r ∈ (s.unit u).src1, (s.owner r).isSome)

/-- The invariant of a run between ticks. -/
structure State.Inv (s : State) : Prop where
  memory : s.MemoryOk
  queue : s.QueueOk
  pools : s.PoolsOk
  links : s.LinksOk
  scoreboard : s.ScoreboardOk
  ownership : s.OwnershipOk
  readiness : s.ReadinessOk
  betweenTicks : s.station = .fetch

/-- The timing relations between ticks (R106, R113, R177): an instruction that has completed execution and not yet written
completed in the last tick, and writes back exactly one tick after `exec`; the latency counter of a unit that writes a
register counts the ticks since its read; a store's counter cannot run ahead of that. -/
structure State.Timely (s : State) : Prop where
  writesNext : ∀ r ∈ s.queue, ∀ e ∈ r.exec, (r.write = none → e + 1 = s.cc) ∧ ∀ w ∈ r.write, w = e + 1
  counts : ∀ u ∈ s.unitIds, (s.unit u).busy = true → ∀ r ∈ s.inst u, ∀ t ∈ r.read, r.exec = none →
    if u.kind = .st then t + s.cfg.delay.get u.kind ≤ (s.unit u).remaining + s.cc
    else (s.unit u).remaining + s.cc = t + s.cfg.delay.get u.kind
  latency : ∀ r ∈ s.queue, ∀ t ∈ r.read, ∀ e ∈ r.exec, ∀ k ∈ s.cfg.opcodes.kindOf r.opcode,
    if k = .st then t + s.cfg.delay.get k ≤ e + 1 else e + 1 = t + s.cfg.delay.get k

/-- The instruction trace between ticks (R152): in ascending program index, of fetched instructions only, with all four
timestamps; it has the record of every written instruction still in the queue, and every fetched instruction is in the
queue or in the trace. -/
structure State.TraceOk (s : State) : Prop where
  ascending : s.instrTrace.Pairwise fun a b => a.pidx < b.pidx
  complete : ∀ t ∈ s.instrTrace, t.pidx < s.pc ∧ t.issue.isSome ∧ t.read.isSome ∧ t.exec.isSome ∧ t.write.isSome
  written : ∀ r ∈ s.queue, r.write.isSome → r.traceRecord s.cfg.opcodes ∈ s.instrTrace
  accounted : ∀ p ∈ List.range s.pc, (∃ r ∈ s.queue, r.pidx = p) ∨ ∃ t ∈ s.instrTrace, t.pidx = p

/-- The one ordering of memory the hardware enforces (R47): once a store has completed, every load of the same address
issued before it has completed, no later than the store. -/
abbrev State.LoadsBeforeStores (s : State) : Prop :=
  ∀ st ∈ s.queue, ∀ l ∈ s.queue, s.cfg.opcodes.kindOf st.opcode = some .st → s.cfg.opcodes.kindOf l.opcode = some .ld →
    l.imm = st.imm → ∀ ti ∈ l.issue, ∀ tj ∈ st.issue, ti < tj → ∀ b ∈ st.exec, ∃ a ∈ l.exec, a ≤ b

/-- Issue in program order (R88): an instruction is issued only after every older one still queued, in a later tick. -/
abbrev State.IssuedInOrder (s : State) : Prop :=
  s.queue.Pairwise fun a b => ∀ tb ∈ b.issue, ∃ ta ∈ a.issue, ta < tb

/-! ## Situations in which an instruction is served -/

/-- Unit `u` is tied to slot `n`, which holds record `r`. -/
abbrev State.Serving (s : State) (u : UnitId) (n : Nat) (r : InstrRecord) : Prop :=
  (s.unit u).slot = some n ∧ s.queue[n]? = some r

/-- The execute visit of a unit whose guard holds (R100). -/
abbrev State.ExecuteCycle (s : State) (u : UnitId) (n : Nat) (r : InstrRecord) : Prop :=
  s.station = .execute u ∧ s.Serving u n r ∧ before r.read s.cc = true ∧ 0 < (s.unit u).remaining

/-- The write-back visit of a unit whose condition holds (R110). -/
abbrev State.WriteBackCycle (s : State) (u : UnitId) (n : Nat) (r : InstrRecord) : Prop :=
  s.station = .writeBack u ∧ s.Serving u n r ∧ before r.exec s.cc = true ∧ (s.unit u).remaining = 0

/-- The read-operands visit of a unit whose instruction was issued in an earlier tick and has not read (R90, R92). -/
abbrev State.ReadCycle (s : State) (u : UnitId) (n : Nat) (r : InstrRecord) : Prop :=
  s.station = .readOperands u ∧ s.Serving u n r ∧ r.read = none ∧ before r.issue s.cc = true

/-- A queued record cannot issue now: its opcode has no kind, or every unit of its kind is busy (R80, R81). -/
abbrev State.CannotIssue (s : State) (r : InstrRecord) : Prop :=
  ∀ k ∈ s.cfg.opcodes.kindOf r.opcode, s.freeUnit k = none

/-- The state after an execute cycle of unit `u`, which serves slot `n`, with staged result `v` (R100 to R104): the counter
one lower, and the execute-complete timestamp if it reaches zero; all else as before. -/
def State.executed (s : State) (u : UnitId) (n : Nat) (v : Word) : State :=
  let t := s.updateUnit u fun f => { f with result := some v, remaining := f.remaining - 1 }
  if (s.unit u).remaining = 1 then t.updateRecord n fun r => { r with exec := some s.cc } else t

/-- The loads that hold back a store to `imm` issued at `issued` (R103): how many busy load units serve an instruction of
the same address, issued before the store, whose execute-complete timestamp is unset. -/
def State.collidingLoads (s : State) (imm : Addr) (issued : Option Nat) : Nat :=
  ((List.range (s.pools.get .ld).length).filter fun j =>
    (s.unit ⟨.ld, j⟩).busy &&
      match s.inst ⟨.ld, j⟩, issued with
      | some l, some t => decide (l.imm = imm) && before l.issue t && l.exec.isNone
      | _, _ => false).length

/-- The same state run with another trace unit and another unit trace so far. -/
def State.retraced (s : State) (u : UnitId) (log : List UnitSnapshot) : State :=
  { s with cfg := { s.cfg with traceUnit := u }, unitTrace := log }

/-! ## The value of a binary32 pattern (93_implementation_defined.md G3) -/

/-- The rational number a finite pattern stands for; none for infinities and NaNs. -/
def Binary32.value (w : Word) : Option ℚ :=
  match Binary32.unpack w with
  | .finite neg m e => some ((if neg then -1 else 1) * (m : ℚ) * (2 : ℚ) ^ e)
  | .inf _ => none
  | .nan => none

/-- Pattern `v` is the rational number `exact` rounded to binary32 (R121, R126; log 4): a finite value that is nearest to it,
with last bit 0 if another value is equally near; an infinity of its sign from the midpoint between the largest finite
value, `(2 ^ 24 - 1) * 2 ^ 104`, and `2 ^ 128` on. -/
def Binary32.IsRounded (v : Word) (exact : ℚ) : Prop :=
  if |exact| < 2 ^ 128 - 2 ^ 103 then
    ∃ y, Binary32.value v = some y ∧ ∀ w z, Binary32.value w = some z →
      |y - exact| ≤ |z - exact| ∧ (z ≠ y → |y - exact| = |z - exact| → v.getLsbD 0 = false)
  else v = Binary32.infinity (decide (exact < 0))

/-- A NaN pattern. -/
def Binary32.isNaN (w : Word) : Bool := decide (Binary32.unpack w = .nan)

end Sys2Proof.Machine
end

