-- ==== Sys2Proof/Certificates/Slice0/Obligations.lean ====
section
/-! DEFINITION. The statements about the machine, from the numbered rules of the spec. `Instr.ofKind k d a b imm` with `k`
arbitrary is any of LD, ST, ADD, SUB, MUL, DIV; with `k ≠ .st` any of LD, ADD, SUB, MUL, DIV. -/

open Sys2Proof Sys2Proof.Machine

/-! ## Encoding -/

/-- R57 (with R50, R51): the encoding of five fields is each field at its place, and the codec loses nothing either way. -/
def Obligations.CodecIsLossless : Prop :=
  (∀ f : Fields,
      (encodeFields f).toNat =
        f.opcode.toNat * 2 ^ 24 + f.dst.val * 2 ^ 20 + f.src0.val * 2 ^ 16 + f.src1.val * 2 ^ 12 + f.imm.toNat ∧
      decodeFields (encodeFields f) = f) ∧
    ∀ w : Word, encodeFields (decodeFields w) = w

/-- Decoding the word of an instruction gives the instruction, for every instruction, every operand, and every legal
choice of opcode numbers; in particular for the numbers of the opcode table. -/
def Obligations.DecodeInvertsEncode : Prop :=
  (∀ (m : OpcodeMap) (i : Instr), m.legal = true → decodeWith m (encodeWith m i) = .ok i) ∧
    ∀ i : Instr, decodeTableWord 32 (encode i).toNat = some i

/-- Every word that decodes to an instruction is that instruction's word: no instruction has two encodings. -/
def Obligations.EncodeInvertsDecode : Prop :=
  ∀ (m : OpcodeMap) (w : Word) (i : Instr), decodeWith m w = .ok i → encodeWith m i = w

/-- R55: with the default numbers the words that are no instruction are those with opcode 0x06 to 0xFF, but for the halt
word. -/
def Obligations.UndefinedWordsAreTheReservedOnes : Prop :=
  ∀ w : Word, (∃ e, decode w = .error e) ↔ 6 ≤ w.toNat / 2 ^ 24 ∧ w ≠ 0x06000000

/-- Every row of vector V1 (95_test_vectors.md), and the example words of SUB (R123) and MUL (R124) in 47_arith.md. -/
def Obligations.SampleWordsDecode : Prop :=
  decodeTableWord 32 0x02123000 = some (.add 1 2 3 0) ∧
    decodeTableWord 32 0x0010000A = some (.ld 1 0 0 10) ∧
    decodeTableWord 32 0x01002065 = some (.st 0 0 2 101) ∧
    decodeTableWord 32 0x05ABCDEF = some (.div 10 11 12 0xDEF) ∧
    decodeTableWord 32 0x03789000 = some (.sub 7 8 9 0) ∧
    decodeTableWord 32 0x04123000 = some (.mul 1 2 3 0) ∧
    decodeTableWord 32 0x06000000 = some .halt ∧
    decodeTableWord 32 0x00000000 = some (.ld 0 0 0 0) ∧
    decodeTableWord 32 0x06000001 = none ∧
    decodeTableWord 32 0xFFFFFFFF = none ∧
    decodeTableWord 32 0x12345678 = none

/-! ## Reset and the step -/

/-- R13: at reset register i holds the binary32 encoding of the number i, as the listed patterns. -/
def Obligations.RegistersResetToTheirIndex : Prop :=
  ∀ p : Params,
    (∀ i : Reg, Binary32.value ((State.resetOf p).reg i) = some (i.val : ℚ)) ∧
      (State.resetOf p).regs.toList =
        [0x00000000, 0x3F800000, 0x40000000, 0x40400000, 0x40800000, 0x40A00000, 0x40C00000, 0x40E00000,
         0x41000000, 0x41100000, 0x41200000, 0x41300000, 0x41400000, 0x41500000, 0x41600000, 0x41700000]

/-- R160, R161, R162: asserting reset, from any state, puts every field at its reset value and keeps the configuration. Three
clauses are the model's choices: that the configuration is a field, and kept (log 1); that the unit trace is a field, empty
at reset (log 15: the index of R160 lists the instruction trace only); and the model's own `station` (log 6). -/
def Obligations.ResetPutsEveryFieldAtItsResetValue : Prop :=
  ∀ s : State,
    s.assertReset.cfg = s.cfg ∧ s.assertReset.pc = 0 ∧ s.assertReset.cc = s.cfg.ccReset ∧
      s.assertReset.haltReached = false ∧ s.assertReset.mem = s.cfg.memInit ∧ s.assertReset.queue = [] ∧
      (∀ k, (s.assertReset.pools.get k).length = s.cfg.nrUnits.get k) ∧
      (∀ u, s.assertReset.unit u = FunctionalUnit.idle) ∧ (∀ r, s.assertReset.owner r = none) ∧
      s.assertReset.instrTrace = [] ∧ s.assertReset.unitTrace = [] ∧ s.assertReset.station = .fetch ∧
      s.assertReset.regs = State.reset.regs ∧ State.reset.cc = 1 ∧ State.reset.pc = 0

/-- The invariants hold right after reset, under every configuration whose memory image is canonical and inside memory. -/
def Obligations.InvariantsHoldAtReset : Prop :=
  ∀ p : Params, p.memInit.wf = true → (∀ c ∈ p.memInit, c.1 < p.memWords) →
    (State.resetOf p).Inv ∧ (State.resetOf p).Timely ∧ (State.resetOf p).TraceOk ∧
      (State.resetOf p).LoadsBeforeStores ∧ (State.resetOf p).IssuedInOrder

/-- R178, R8: a latency below 2 is refused, and so are opcode numbers that are not seven distinct values. -/
def Obligations.IllegalConfigurationIsRefused : Prop :=
  (∀ (s : State) (k : Kind), s.cfg.delay.get k < 2 → step s = .refused .illegalLatency) ∧
    ∀ s : State, (∀ k, 2 ≤ s.cfg.delay.get k) →
      ¬[s.cfg.opcodes.ld, s.cfg.opcodes.st, s.cfg.opcodes.add, s.cfg.opcodes.sub, s.cfg.opcodes.mul,
        s.cfg.opcodes.div, s.cfg.opcodes.halt].Nodup → step s = .refused .illegalOpcodes

/-- R64, R29: `done` is the halt flag with every occupied slot written, and with `done` the state holds. -/
def Obligations.DoneStateHolds : Prop :=
  ∀ s : State,
    (s.done = true ↔ s.haltReached = true ∧ ∀ r ∈ s.queue, r.write.isSome) ∧
      (s.cfg.legal = true → s.done = true → step s = .next s)

/-- R14, R70: with the cursor at the end of memory and no halt word met, the machine is stuck. -/
def Obligations.FetchPastEndIsStuck : Prop :=
  ∀ s : State, s.cfg.legal = true → s.haltReached = false → s.cfg.memWords ≤ s.pc → step s = .fault .fetchPastEnd

/-- R60, R62, R70. When the word at the fetch cursor decodes to instruction `i`, the step is: `exec` serves `i` at the fetch
station, then come issue, read-operands, execute, write-back and clear-busy in that order, each from the state the one before
left, then the unit trace, and the cycle counter goes up by one. Once the halt word has been met the step is the same without
the fetch. Each of the four phases over units visits ADD, SUB, MUL, DIV, LD, ST in that order, and a pool's units in
ascending index, a later visit from the state the earlier ones left. -/
def Obligations.StepServesTheFetchedInstruction : Prop :=
  let later : State → Result := fun f =>
    andThen f.issuePhase fun i =>
    andThen (State.unitPhase .readOperands i) fun r =>
    andThen (State.unitPhase .execute r) fun e =>
    andThen (State.unitPhase .writeBack e) fun w =>
    andThen (State.unitPhase .clearBusy w) fun b =>
    .next { b.emitUnitTrace with cc := b.cc + 1, station := .fetch }
  (∀ (s : State) (i : Instr), s.cfg.legal = true → s.haltReached = false → s.pc < s.cfg.memWords →
    decodeWith s.cfg.opcodes (s.mem.read s.pc) = .ok i → step s = andThen (exec i (s.at .fetch)) later) ∧
  (∀ s : State, s.cfg.legal = true → s.haltReached = true → s.done = false → step s = later s) ∧
  ∀ (st : UnitId → Station) (s : State),
    State.unitPhase st s =
      ((List.range s.pools.add.length).map (UnitId.mk .add) ++ (List.range s.pools.sub.length).map (UnitId.mk .sub) ++
        (List.range s.pools.mul.length).map (UnitId.mk .mul) ++ (List.range s.pools.div.length).map (UnitId.mk .div) ++
        (List.range s.pools.ld.length).map (UnitId.mk .ld) ++ (List.range s.pools.st.length).map (UnitId.mk .st)).foldl
          (fun o u => andThen o (State.serve st u)) (.next s)

/-- In each of the four later phases an idle unit is passed over and a busy one is served (R90, R100, R110, R115). That the
visit takes the operand fields of the record in the unit's slot is the model's reading (log 7, DEDUCED): R91, R102, R111 and
R115 name the unit's own copies of them, and `State.Serves`, a part of the invariant that StepKeepsTheInvariant keeps, says
that the two are equal. -/
def Obligations.UnitsAreServedAsTheirInstructionSays : Prop :=
  ∀ (s : State) (u : UnitId) (st : UnitId → Station),
    ((s.unit u).busy = false → s.serve st u = .next s) ∧
      ∀ (n : Nat) (r : InstrRecord) (k : Kind), (s.unit u).busy = true → s.Serving u n r →
        s.cfg.opcodes.kindOf r.opcode = some k →
          s.serve st u = exec (.ofKind k r.dst r.src0 r.src1 r.imm) (s.at (st u))

/-- R55, R137, R74: a word that is no instruction enters the queue like any other when there is room; the other phases of the
tick follow in the order of R60. -/
def Obligations.UndefinedWordIsQueued : Prop :=
  ∀ (s : State) (e : DecodeError), s.cfg.legal = true → s.haltReached = false → s.pc < s.cfg.memWords →
    decodeWith s.cfg.opcodes (s.mem.read s.pc) = .error e → (s.queue.filter fun r => r.write.isNone).length < 16 →
      step s =
        andThen (State.issuePhase
          { s.compact with
            queue := (s.queue.filter fun r => r.write.isNone) ++ [newRecord (s.mem.read s.pc) s.pc], pc := s.pc + 1 })
        fun i =>
        andThen (State.unitPhase .readOperands i) fun r =>
        andThen (State.unitPhase .execute r) fun e =>
        andThen (State.unitPhase .writeBack e) fun w =>
        andThen (State.unitPhase .clearBusy w) fun b =>
        .next { b.emitUnitTrace with cc := b.cc + 1, station := .fetch }

/-- R61: no phase changes the cycle counter, a tick ends by adding 1 to it, and the first tick after reset runs at 1. -/
def Obligations.CycleCounterCountsTicks : Prop :=
  (∀ (i : Instr) (s t : State), exec i s = .next t → t.cc = s.cc) ∧
    (∀ s t : State, s.fetchPhase = .next t → t.cc = s.cc) ∧
    (∀ s t : State, s.issuePhase = .next t → t.cc = s.cc) ∧
    (∀ (st : UnitId → Station) (s t : State), State.unitPhase st s = .next t → t.cc = s.cc) ∧
    (∀ s t : State, s.done = false → step s = .next t → t.cc = s.cc + 1) ∧
    State.reset.cc = 1

/-- R26, R21: the configuration and the number of units of every pool never change. -/
def Obligations.ConfigurationIsConstant : Prop :=
  ∀ s t : State, step s = .next t → t.cfg = s.cfg ∧ ∀ k, (t.pools.get k).length = (s.pools.get k).length

/-! ## Fetch, HALT, compaction -/

/-- LD, ST, ADD, SUB, MUL, DIV at the fetch cursor (R70 to R75): with a slot free after compaction the instruction takes
the leftmost free one, with its word, its operands and its program index, all stamps unset, and the cursor moves on. -/
def Obligations.FetchedInstructionEntersTheQueue : Prop :=
  ∀ (s : State) (k : Kind) (d a b : Reg) (imm : Addr), s.station = .fetch →
    (s.queue.filter fun r => r.write.isNone).length < 16 →
      exec (.ofKind k d a b imm) s = .next
        { s.compact with
          pc := s.pc + 1
          queue := (s.queue.filter fun r => r.write.isNone) ++
            [{ word := encodeWith s.cfg.opcodes (.ofKind k d a b imm)
               opcode := (encodeWith s.cfg.opcodes (.ofKind k d a b imm)).extractLsb' 24 8
               dst := d, src0 := a, src1 := b, imm := imm
               issue := none, read := none, exec := none, write := none, unit := none, pidx := s.pc }] }

/-- R14, R63, R70, R78: a step either leaves the cursor and lets no record in, or advances the cursor by one and appends,
behind the unwritten records, one record of the word that memory held at the old cursor, with the old cursor as its program
index; the second never once the halt word is met. -/
def Obligations.OneWordEntersPerTick : Prop :=
  ∀ s t : State, step s = .next t →
    (t.pc = s.pc ∧ (t.queue.map fun r => (r.word, r.pidx)).Sublist (s.queue.map fun r => (r.word, r.pidx))) ∨
      (t.pc = s.pc + 1 ∧ s.haltReached = false ∧ s.mem.read s.pc ≠ s.cfg.opcodes.haltWord ∧
        (t.queue.map fun r => (r.word, r.pidx)) =
          ((s.queue.filter fun r => r.write.isNone).map fun r => (r.word, r.pidx)) ++ [(s.mem.read s.pc, s.pc)])

/-- R76: with 16 unwritten instructions queued, a fetch is turned away: the cursor and every unwritten record stay. -/
def Obligations.FullQueueTurnsFetchAway : Prop :=
  ∀ (s : State) (k : Kind) (d a b : Reg) (imm : Addr), s.station = .fetch →
    16 ≤ (s.queue.filter fun r => r.write.isNone).length →
      ∃ t, exec (.ofKind k d a b imm) s = .next t ∧ t.pc = s.pc ∧
        t.queue = s.queue.filter fun r => r.write.isNone

/-- R72, R73: compaction drops the written records and no other, in order; a busy unit's slot becomes the number of
unwritten records before it, so that the unit serves the record it served; a unit that is not busy is not touched, and
nothing but the queue and the slots changes. -/
def Obligations.CompactionKeepsBackReferences : Prop :=
  ∀ s : State,
    s.compact.queue = s.queue.filter (fun r => r.write.isNone) ∧
      (∀ u n r, (s.unit u).busy = true → s.Serving u n r → r.write = none →
        s.compact.inst u = some r ∧
        s.compact.unit u =
          { s.unit u with slot := some ((s.queue.take n).filter fun x => x.write.isNone).length }) ∧
      (∀ u, (s.unit u).busy = false → s.compact.unit u = s.unit u) ∧
      s.compact = { s with queue := s.compact.queue, pools := s.compact.pools }

/-- HALT (R135): the halt flag is set and nothing else changes. -/
def Obligations.HaltSetsTheHaltFlagOnly : Prop :=
  ∀ s : State, exec .halt s = .next { s with haltReached := true }

/-- R135, R70, R77: in the tick that meets the halt word and in every later one the cursor stays, the flag is set, and no
record enters or leaves the queue. -/
def Obligations.NothingIsFetchedFromHaltOn : Prop :=
  ∀ s t : State, (s.haltReached = true ∨ s.mem.read s.pc = s.cfg.opcodes.haltWord) → step s = .next t →
    t.haltReached = true ∧ t.pc = s.pc ∧ t.queue.map (·.pidx) = s.queue.map (·.pidx)

/-! ## Issue -/

/-- R81: the free unit of a pool is the one with the lowest index that is not busy, and there is none if all are busy. -/
def Obligations.FreeUnitIsTheLowestIdleOne : Prop :=
  ∀ (s : State) (k : Kind),
    (∀ u, s.freeUnit k = some u ↔ u.kind = k ∧ u.idx < (s.pools.get k).length ∧ (s.unit u).busy = false ∧
      ∀ j < u.idx, (s.unit ⟨k, j⟩).busy = true) ∧
    (s.freeUnit k = none ↔ ∀ j < (s.pools.get k).length, (s.unit ⟨k, j⟩).busy = true)

/-- LD, ST, ADD, SUB, MUL, DIV at issue to unit `u` (R82, R83, R84): the sources are sampled from the scoreboard as it
stood, the destination is claimed or the WAW flag set (neither for ST), the unit becomes busy and is tied to the slot, the
record gets its issue timestamp and unit; nothing else changes. -/
def Obligations.IssueRecordsHazardsAndClaims : Prop :=
  ∀ (s : State) (u : UnitId) (n : Nat) (r : InstrRecord) (k : Kind) (d a b : Reg) (imm : Addr),
    s.station = .issue u n → u.idx < (s.pools.get u.kind).length → s.queue[n]? = some r →
      ∃ t, exec (.ofKind k d a b imm) s = .next t ∧
        t.unit u =
          { busy := true, remaining := 0, dst := some d, src0 := some a, src1 := some b
            ready0 := (s.owner a).isNone, q0 := s.owner a, ready1 := (s.owner b).isNone, q1 := s.owner b
            result := none, slot := some n, waw := decide (k ≠ .st) && (s.owner d).isSome } ∧
        (∀ v, v ≠ u → t.unit v = s.unit v) ∧
        t.queue = s.queue.set n { r with issue := some s.cc, unit := some u.idx } ∧
        (∀ x, t.owner x = if k ≠ .st ∧ x = d ∧ s.owner d = none then some u else s.owner x) ∧
        t = { s with pools := t.pools, queue := t.queue, busy := t.busy }

/-- R80, R63: the issue phase always answers a next state. It issues exactly one instruction, by `exec` at the issue station,
to the free unit of its kind: under `in_order` the first unissued one of the queue, under `first_fit` the first unissued one
that can issue. It issues nothing, and changes nothing, only if no record is unissued, or, under `in_order`, the first
unissued one cannot issue, or, under `first_fit`, none of them can. -/
def Obligations.IssuePhaseIssuesAtMostOne : Prop :=
  ∀ s : State, ∃ t, s.issuePhase = .next t ∧
    ((t = s ∧
        ((∀ r ∈ s.queue, r.issue.isSome) ∨
          (s.cfg.policy = .inOrder ∧ ∃ n r, s.queue[n]? = some r ∧ r.issue = none ∧ s.CannotIssue r ∧
            ∀ x ∈ s.queue.take n, x.issue.isSome) ∨
          (s.cfg.policy = .firstFit ∧ ∀ r ∈ s.queue, r.issue = none → s.CannotIssue r))) ∨
      ∃ n r u, s.queue[n]? = some r ∧ r.issue = none ∧ s.cfg.opcodes.kindOf r.opcode = some u.kind ∧
        s.freeUnit u.kind = some u ∧
        exec (.ofKind u.kind r.dst r.src0 r.src1 r.imm) (s.at (.issue u n)) = .next t ∧
        t.queue = s.queue.set n { r with issue := some s.cc, unit := some u.idx } ∧
        ∀ x ∈ s.queue.take n, x.issue.isSome ∨ (s.cfg.policy = .firstFit ∧ s.CannotIssue x))

/-! ## Read operands -/

/-- LD, ADD, SUB, MUL, DIV (R91): a WAW-flagged unit that has not read takes its destination's entry as soon as the entry
is free, whether or not its sources are ready; no other entry changes and the flag stays. -/
def Obligations.FlaggedUnitClaimsAFreedEntry : Prop :=
  ∀ (s : State) (u : UnitId) (n : Nat) (r : InstrRecord) (k : Kind) (d a b : Reg) (imm : Addr), k ≠ .st →
    s.station = .readOperands u → s.Serving u n r → r.read = none →
      ∃ t, exec (.ofKind k d a b imm) s = .next t ∧
        (∀ x, t.owner x = if x = d ∧ (s.unit u).waw = true ∧ s.owner d = none then some u else s.owner x) ∧
        (t.unit u).waw = (s.unit u).waw

/-- LD, ADD, SUB, MUL, DIV (R92): issued in an earlier tick, both sources ready, and the destination not flagged, owned or
just free, the instruction reads: the read timestamp is set and the counter is the latency less one. -/
def Obligations.WriterReadsWhenReady : Prop :=
  ∀ (s : State) (u : UnitId) (n : Nat) (r : InstrRecord) (k : Kind) (d a b : Reg) (imm : Addr), k ≠ .st →
    s.ReadCycle u n r → (s.unit u).ready0 = true → (s.unit u).ready1 = true →
    ((s.unit u).waw = false ∨ s.owner d = none ∨ s.owner d = some u) →
      ∃ t, exec (.ofKind k d a b imm) s = .next t ∧
        t.queue = s.queue.set n { r with read := some s.cc } ∧
        t.unit u = { s.unit u with remaining := s.cfg.delay.get u.kind - 1 } ∧
        (∀ v, v ≠ u → t.unit v = s.unit v) ∧ t.regs = s.regs ∧ t.mem = s.mem

/-- ST (R92): issued in an earlier tick and its second source ready, a store reads, whatever its first source and its
destination field; the scoreboard is unchanged. -/
def Obligations.StoreReadsOnItsSecondSource : Prop :=
  ∀ (s : State) (u : UnitId) (n : Nat) (r : InstrRecord) (d a b : Reg) (imm : Addr),
    s.ReadCycle u n r → (s.unit u).ready1 = true →
      ∃ t, exec (.st d a b imm) s = .next t ∧
        t.queue = s.queue.set n { r with read := some s.cc } ∧
        t.unit u = { s.unit u with remaining := s.cfg.delay.get u.kind - 1 } ∧
        (∀ v, v ≠ u → t.unit v = s.unit v) ∧ t.regs = s.regs ∧ t.mem = s.mem ∧ t.busy = s.busy

/-- R92: an instruction whose condition fails waits: no record and no unit changes. A source that is not ready, an issue in
this very tick, or (but for ST) a flagged destination owned by another unit is enough. -/
def Obligations.UnreadyInstructionWaits : Prop :=
  ∀ (s : State) (u : UnitId) (n : Nat) (r : InstrRecord) (k : Kind) (d a b : Reg) (imm : Addr),
    s.station = .readOperands u → s.Serving u n r → r.read = none →
    (before r.issue s.cc = false ∨ (s.unit u).ready1 = false ∨ (k ≠ .st ∧ (s.unit u).ready0 = false) ∨
      (k ≠ .st ∧ (s.unit u).waw = true ∧ ∃ v, s.owner d = some v ∧ v ≠ u)) →
      ∃ t, exec (.ofKind k d a b imm) s = .next t ∧ t.queue = s.queue ∧ t.pools = s.pools ∧ t.regs = s.regs ∧
        t.mem = s.mem

/-- R90, R100, R110: a visit whose guard fails changes nothing: the instruction has already read; it has not read before
this cycle or its counter is zero; it has not completed before this cycle or its counter is not zero. -/
def Obligations.VisitsBeforeTheirTimeChangeNothing : Prop :=
  ∀ (s : State) (u : UnitId) (n : Nat) (r : InstrRecord) (k : Kind) (d a b : Reg) (imm : Addr), s.Serving u n r →
    ((s.station = .readOperands u ∧ r.read.isSome) ∨
      (s.station = .execute u ∧ (before r.read s.cc = false ∨ (s.unit u).remaining = 0)) ∨
      (s.station = .writeBack u ∧ (before r.exec s.cc = false ∨ (s.unit u).remaining ≠ 0))) →
      exec (.ofKind k d a b imm) s = .next s

/-- R118: no step lowers a readiness flag of a unit that stays busy. -/
def Obligations.ReadinessFlagsOnlyRise : Prop :=
  ∀ s t : State, step s = .next t → ∀ u, (s.unit u).busy = true → (t.unit u).busy = true →
    ((s.unit u).ready0 = true → (t.unit u).ready0 = true) ∧ ((s.unit u).ready1 = true → (t.unit u).ready1 = true)

/-! ## Execute -/

/-- R41: a read of an address inside memory returns the word there and has no other effect; a write sets that word and no
other, and changes no other part of the state. -/
def Obligations.MemoryPrimitivesMoveOneWord : Prop :=
  ∀ (s : State) (a : Nat) (v : Word), s.mem.wf = true → a < s.cfg.memWords →
    s.memRead a = .ok (s.mem.read a) ∧
      ∃ m : Memory, s.memWrite a v = .ok { s with mem := m } ∧ m.wf = true ∧
        ∀ x, m.read x = if x = a then v else s.mem.read x

/-- ADD, SUB, MUL, DIV in their first execute cycle (R102, R122 to R125): the staged result is the instruction's function of
the two source registers as they stand now, src0 first; the counter goes down and the timestamp is set at zero. -/
def Obligations.ArithmeticStagesItsFunction : Prop :=
  ∀ (s : State) (u : UnitId) (n : Nat) (r : InstrRecord) (d a b : Reg) (imm : Addr),
    s.ExecuteCycle u n r → (s.unit u).result = none →
      exec (.add d a b imm) s = .next (s.executed u n (fadd s.cfg.numerics (s.reg a) (s.reg b))) ∧
      exec (.sub d a b imm) s = .next (s.executed u n (fsub s.cfg.numerics (s.reg a) (s.reg b))) ∧
      exec (.mul d a b imm) s = .next (s.executed u n (fmul s.cfg.numerics (s.reg a) (s.reg b))) ∧
      exec (.div d a b imm) s = .next (s.executed u n (fdiv s.cfg.numerics (s.reg a) (s.reg b)))

/-- LD in its first execute cycle (R102, R130): the staged result is the memory word at the immediate, as memory stands now,
all 32 bits unchanged; memory is not changed. -/
def Obligations.LoadStagesTheMemoryWord : Prop :=
  ∀ (s : State) (u : UnitId) (n : Nat) (r : InstrRecord) (d a b : Reg) (imm : Addr),
    s.ExecuteCycle u n r → (s.unit u).result = none → effectiveAddress imm < s.cfg.memWords →
      exec (.ld d a b imm) s = .next (s.executed u n (s.mem.read (effectiveAddress imm)))

/-- R102: a result that is staged is never computed again, whatever registers and memory hold by then. -/
def Obligations.StagedResultIsKept : Prop :=
  ∀ (s : State) (u : UnitId) (n : Nat) (r : InstrRecord) (k : Kind) (d a b : Reg) (imm : Addr) (v : Word), k ≠ .st →
    s.ExecuteCycle u n r → (s.unit u).result = some v →
      exec (.ofKind k d a b imm) s = .next (s.executed u n v)

/-- ST in an execute cycle that does not bring its counter to zero (R101, R102, R131): the value of its second source
register is staged if none is, the counter goes down, and memory is unchanged. -/
def Obligations.StoreStagesItsRegister : Prop :=
  ∀ (s : State) (u : UnitId) (n : Nat) (r : InstrRecord) (d a b : Reg) (imm : Addr),
    s.ExecuteCycle u n r → (s.unit u).remaining ≠ 1 →
      exec (.st d a b imm) s =
        .next (s.updateUnit u fun f =>
          { f with result := some (f.result.getD (s.reg b)), remaining := f.remaining - 1 })

/-- ST whose counter reaches zero with no colliding load (R103, R104, R131): the staged value, or its register's value if
this is its first execute cycle, goes to the word at the immediate, and the execute-complete timestamp is set. -/
def Obligations.StoreCompletesToMemory : Prop :=
  ∀ (s : State) (u : UnitId) (n : Nat) (r : InstrRecord) (d a b : Reg) (imm : Addr), s.mem.wf = true →
    s.ExecuteCycle u n r → (s.unit u).remaining = 1 → s.collidingLoads imm r.issue = 0 → u.kind = .st →
    effectiveAddress imm < s.cfg.memWords →
      ∃ t, exec (.st d a b imm) s = .next t ∧
        (∀ x, t.mem.read x =
          if x = effectiveAddress imm then (s.unit u).result.getD (s.reg b) else s.mem.read x) ∧
        t.queue = s.queue.set n { r with exec := some s.cc } ∧ (t.unit u).remaining = 0 ∧
        t.regs = s.regs ∧ t.busy = s.busy

/-- R103: an earlier-issued incomplete load of the same address holds a store back: its counter becomes the number of such
loads, memory is unchanged and the store is not complete. -/
def Obligations.EarlierLoadHoldsAStoreBack : Prop :=
  ∀ (s : State) (u : UnitId) (n : Nat) (r : InstrRecord) (d a b : Reg) (imm : Addr),
    s.ExecuteCycle u n r → (s.unit u).remaining = 1 → 0 < s.collidingLoads imm r.issue → u.kind = .st →
      ∃ t, exec (.st d a b imm) s = .next t ∧ (t.unit u).remaining = s.collidingLoads imm r.issue ∧
        t.mem = s.mem ∧ t.queue = s.queue

/-- R44: with a reduced memory, an LD or ST beyond it is refused. That it is refused at the access, LD in its first execute
cycle and ST at its completion, is the model's choice (log 13): the rule does not say when. -/
def Obligations.AccessBeyondMemoryIsRefused : Prop :=
  ∀ (s : State) (u : UnitId) (n : Nat) (r : InstrRecord) (d a b : Reg) (imm : Addr),
    s.ExecuteCycle u n r → s.cfg.memWords ≤ effectiveAddress imm →
      ((s.unit u).result = none → exec (.ld d a b imm) s = .refused .addressBeyondMemory) ∧
      ((s.unit u).remaining = 1 → s.collidingLoads imm r.issue = 0 → u.kind = .st →
        exec (.st d a b imm) s = .refused .addressBeyondMemory)

/-! ## Write back and clear busy -/

/-- LD, ADD, SUB, MUL, DIV at write-back (R111, R112, R152): the staged result goes to the destination register and to no
other, the write timestamp is set, the scoreboard entry is cleared only if it names this unit, the unit returns to its
reset value, the record enters the trace; memory and every other unit are unchanged. -/
def Obligations.WriteBackCommitsToTheRegister : Prop :=
  ∀ (s : State) (u : UnitId) (n : Nat) (r : InstrRecord) (k : Kind) (d a b : Reg) (imm : Addr) (v : Word), k ≠ .st →
    s.WriteBackCycle u n r → (s.unit u).result = some v →
      ∃ t, exec (.ofKind k d a b imm) s = .next t ∧
        (∀ x, t.reg x = if x = d then v else s.reg x) ∧
        t.queue = s.queue.set n { r with write := some s.cc } ∧
        (∀ x, t.owner x = if x = d ∧ s.owner d = some u then none else s.owner x) ∧
        t.unit u = FunctionalUnit.idle ∧ (∀ w, w ≠ u → t.unit w = s.unit w) ∧
        t.instrTrace =
          insertTrace ({ r with write := some s.cc }.traceRecord s.cfg.opcodes) s.instrTrace ∧
        t.mem = s.mem ∧ t.pc = s.pc ∧ t.haltReached = s.haltReached

/-- ST at write-back (R111, R112): the write timestamp and the reset of the unit; no register, no scoreboard entry and no
memory word changes. -/
def Obligations.StoreWriteBackWritesNoRegister : Prop :=
  ∀ (s : State) (u : UnitId) (n : Nat) (r : InstrRecord) (d a b : Reg) (imm : Addr), s.WriteBackCycle u n r →
    ∃ t, exec (.st d a b imm) s = .next t ∧ t.regs = s.regs ∧ t.busy = s.busy ∧ t.mem = s.mem ∧
      t.queue = s.queue.set n { r with write := some s.cc } ∧
      t.unit u = FunctionalUnit.idle ∧ (∀ w, w ≠ u → t.unit w = s.unit w) ∧
      t.instrTrace = insertTrace ({ r with write := some s.cc }.traceRecord s.cfg.opcodes) s.instrTrace

/-- LD, ST, ADD, SUB, MUL, DIV at clear-busy (R115, R116, R118): a source field whose register has no pending producer
becomes ready and loses its producer reference; a flag never falls; nothing else changes. -/
def Obligations.ClearBusyRaisesReadiness : Prop :=
  ∀ (s : State) (u : UnitId) (k : Kind) (d a b : Reg) (imm : Addr), s.station = .clearBusy u →
    u.idx < (s.pools.get u.kind).length →
      ∃ t, exec (.ofKind k d a b imm) s = .next t ∧
        t.unit u = { s.unit u with
          ready0 := if s.owner a = none then true else (s.unit u).ready0
          q0 := if s.owner a = none then none else (s.unit u).q0
          ready1 := if s.owner b = none then true else (s.unit u).ready1
          q1 := if s.owner b = none then none else (s.unit u).q1 } ∧
        (∀ v, v ≠ u → t.unit v = s.unit v) ∧ t = { s with pools := t.pools }

/-! ## Frames -/

/-- LD, ADD, SUB, MUL, DIV, wherever in a tick they are served: no register but the destination, no scoreboard entry but
the destination's, no memory word, and neither the halt flag, the cycle counter, the configuration nor the unit trace
changes; the registers change at write-back only. -/
def Obligations.RegisterWriterFrame : Prop :=
  ∀ (s t : State) (k : Kind) (d a b : Reg) (imm : Addr), k ≠ .st → exec (.ofKind k d a b imm) s = .next t →
    (∀ x, x ≠ d → t.reg x = s.reg x) ∧ (∀ x, x ≠ d → t.owner x = s.owner x) ∧
      (∀ x, t.mem.read x = s.mem.read x) ∧ t.haltReached = s.haltReached ∧ t.cc = s.cc ∧ t.cfg = s.cfg ∧
      t.unitTrace = s.unitTrace ∧ ((∀ u, s.station ≠ .writeBack u) → t.regs = s.regs ∧ t.instrTrace = s.instrTrace)

/-- ST, wherever in a tick it is served: no register, no scoreboard entry, and no memory word but the one at its effective
address changes, nor the halt flag, the cycle counter, the configuration or the unit trace; memory changes at execute
only. -/
def Obligations.StoreFrame : Prop :=
  ∀ (s t : State) (d a b : Reg) (imm : Addr), exec (.st d a b imm) s = .next t →
    t.regs = s.regs ∧ t.busy = s.busy ∧ (∀ x, x ≠ effectiveAddress imm → t.mem.read x = s.mem.read x) ∧
      t.haltReached = s.haltReached ∧ t.cc = s.cc ∧ t.cfg = s.cfg ∧ t.unitTrace = s.unitTrace ∧
      ((∀ u, s.station ≠ .execute u) → t.mem = s.mem)

/-! ## Invariants that every step keeps -/

/-- The invariant of a run (R20, R22, R23, R25, R117) is kept by every step, from every state that has it. -/
def Obligations.StepKeepsTheInvariant : Prop :=
  ∀ s t : State, s.Inv → step s = .next t → t.Inv

/-- The timing relations (R106, R113, R177) are kept by every step. -/
def Obligations.StepKeepsTheTimingRelations : Prop :=
  ∀ s t : State, s.Inv → s.Timely → step s = .next t → t.Timely

/-- The instruction trace stays complete and in program order (R152). -/
def Obligations.StepKeepsTheTraceComplete : Prop :=
  ∀ s t : State, s.Inv → s.TraceOk → step s = .next t → t.TraceOk

/-- The memory stays canonical and inside its bounds. -/
def Obligations.StepKeepsMemoryCanonical : Prop :=
  ∀ s t : State, s.MemoryOk → step s = .next t → t.MemoryOk

/-- R47: the one ordering of memory the hardware enforces is kept by every step. -/
def Obligations.StepKeepsLoadsBeforeStores : Prop :=
  ∀ s t : State, s.Inv → s.LoadsBeforeStores → step s = .next t → t.LoadsBeforeStores

/-- R88: under `in_order`, issue in program order is kept by every step. -/
def Obligations.StepKeepsIssueOrder : Prop :=
  ∀ s t : State, s.Inv → s.cfg.policy = .inOrder → s.IssuedInOrder → step s = .next t → t.IssuedInOrder

/-- From a state that keeps the invariant, with a legal configuration and every address of an immediate in memory, a step
answers a next state, or the cursor has run off the end of memory: no other stop is reached. -/
def Obligations.SafeStepsComplete : Prop :=
  ∀ s : State, s.Inv → s.cfg.legal = true → 4096 ≤ s.cfg.memWords →
    (∃ t, step s = .next t) ∨ (step s = .fault .fetchPastEnd ∧ s.pc = s.cfg.memWords ∧ s.haltReached = false)

/-- R20(b): a timestamp once set is never changed: after a step every queued instruction is still queued with its set
timestamps, or it had been written and was dropped. -/
def Obligations.TimestampsNeverChange : Prop :=
  ∀ s t : State, s.Inv → step s = .next t → ∀ r ∈ s.queue,
    (r.write.isSome ∧ ∀ x ∈ t.queue, x.pidx ≠ r.pidx) ∨
      ∃ x ∈ t.queue, x.pidx = r.pidx ∧ x.word = r.word ∧ (∀ v ∈ r.issue, x.issue = some v) ∧
        (∀ v ∈ r.read, x.read = some v) ∧ (∀ v ∈ r.exec, x.exec = some v) ∧ ∀ v ∈ r.write, x.write = some v

/-- R137, R55: a queued record whose opcode has no kind is never issued and never leaves the queue, and `done` does not
hold. -/
def Obligations.UndefinedRecordStaysForEver : Prop :=
  ∀ s t : State, s.Inv → step s = .next t → ∀ r ∈ s.queue, r.issue = none →
    s.cfg.opcodes.kindOf r.opcode = none → r ∈ t.queue ∧ t.done = false

/-- R152: when `done` holds the instruction trace has exactly one record for each fetched word, in program order. -/
def Obligations.DoneTraceHasEveryInstruction : Prop :=
  ∀ s : State, s.Inv → s.TraceOk → s.done = true → s.instrTrace.map (·.pidx) = List.range s.pc

/-! ## The unit trace -/

/-- R153: a tick appends one snapshot of the trace unit if that unit is busy after the clear-busy phase, and none
otherwise. -/
def Obligations.UnitTraceSamplesBusyTicks : Prop :=
  ∀ s t : State, s.done = false → step s = .next t →
    t.unitTrace = s.unitTrace ++
      (if (t.unit s.cfg.traceUnit).busy then
        [{ cc := s.cc, unit := s.cfg.traceUnit, dst := (t.unit s.cfg.traceUnit).dst
           src0 := (t.unit s.cfg.traceUnit).src0, src1 := (t.unit s.cfg.traceUnit).src1
           q0 := (t.unit s.cfg.traceUnit).q0, q1 := (t.unit s.cfg.traceUnit).q1
           ready0 := (t.unit s.cfg.traceUnit).ready0, ready1 := (t.unit s.cfg.traceUnit).ready1 }]
      else [])

/-- R149: the choice of the trace unit has no influence: with any other choice the step has the same outcome, and the next
state differs in nothing but that choice and the unit trace. -/
def Obligations.TraceUnitIsNotObserved : Prop :=
  ∀ (s : State) (u : UnitId) (log : List UnitSnapshot),
    match step s with
    | .next t => ∃ log', step (s.retraced u log) = .next (t.retraced u log')
    | .fault e => step (s.retraced u log) = .fault e
    | .refused e => step (s.retraced u log) = .refused e

/-! ## Arithmetic, under the recommended instantiation (log 4) -/

/-- R121's named property, of the instantiation that the model takes (log 4): where the real result of the operation is representable in binary32, the function returns a
pattern of that value. -/
def Obligations.ExactResultsAreReturned : Prop :=
  ∀ (a b w : Word) (x y : ℚ), Binary32.value a = some x → Binary32.value b = some y →
    (Binary32.value w = some (x + y) → Binary32.value (fadd .binary32 a b) = some (x + y)) ∧
    (Binary32.value w = some (x - y) → Binary32.value (fsub .binary32 a b) = some (x - y)) ∧
    (Binary32.value w = some (x * y) → Binary32.value (fmul .binary32 a b) = some (x * y)) ∧
    (y ≠ 0 → Binary32.value w = some (x / y) → Binary32.value (fdiv .binary32 a b) = some (x / y))

/-- The instantiation that the model takes (log 4), which R121 recommends: "IEEE 754 binary32 arithmetic with
round-to-nearest-even". On finite operands (the divisor not zero) each of the four functions answers the nearest binary32
value to the exact result, the even one of two, and an infinity of its sign where the result is too large for the format
("overflow gives an infinity", R126); and so does the narrowing that they share, of any exact number. -/
def Obligations.RoundingIsToNearestEven : Prop :=
  (∀ (a b : Word) (x y : ℚ), Binary32.value a = some x → Binary32.value b = some y →
    Binary32.IsRounded (fadd .binary32 a b) (x + y) ∧ Binary32.IsRounded (fsub .binary32 a b) (x - y) ∧
      Binary32.IsRounded (fmul .binary32 a b) (x * y) ∧
      (y ≠ 0 → Binary32.IsRounded (fdiv .binary32 a b) (x / y))) ∧
    ∀ (neg : Bool) (m : Nat) (e : Int),
      Binary32.IsRounded (Binary32.round neg m e) ((if neg then -1 else 1) * (m : ℚ) * (2 : ℚ) ^ e)

/-- R126, of the instantiation that the model takes (log 4): a finite non-zero value divided by zero gives an infinity with the exclusive-or of the signs; zero by zero,
infinity minus infinity, zero times infinity and any operation on a NaN give a NaN. -/
def Obligations.SpecialResultsDoNotTrap : Prop :=
  (∀ (a b : Word) (x : ℚ), Binary32.value a = some x → x ≠ 0 → Binary32.value b = some 0 →
      fdiv .binary32 a b = Binary32.infinity (a.msb ^^ b.msb)) ∧
    (∀ a b : Word, Binary32.value a = some 0 → Binary32.value b = some 0 →
      Binary32.isNaN (fdiv .binary32 a b) = true) ∧
    (∀ n : Bool, Binary32.isNaN (fsub .binary32 (Binary32.infinity n) (Binary32.infinity n)) = true) ∧
    (∀ (a : Word) (n : Bool), Binary32.value a = some 0 →
      Binary32.isNaN (fmul .binary32 a (Binary32.infinity n)) = true ∧
      Binary32.isNaN (fmul .binary32 (Binary32.infinity n) a) = true) ∧
    ∀ a b : Word, Binary32.isNaN a = true ∨ Binary32.isNaN b = true →
      Binary32.isNaN (fadd .binary32 a b) = true ∧ Binary32.isNaN (fsub .binary32 a b) = true ∧
      Binary32.isNaN (fmul .binary32 a b) = true ∧ Binary32.isNaN (fdiv .binary32 a b) = true

/-- U6: a NaN result may be any NaN pattern and is nothing else: the free choice ranges over exactly the NaN patterns. -/
def Obligations.NaNResultIsAnyNaN : Prop :=
  (∀ c : Word, Binary32.isNaN (Binary32.nanOf c) = true) ∧
    ∀ w : Word, Binary32.isNaN w = true → Binary32.nanOf w = w
end

