-- ==== Sys2Proof/Laws/Memory.lean ====
section
/-! SUPPORT. What reading and writing memory do, and that every memory operation keeps the canonical form. -/

namespace Sys2Proof

@[simp] theorem Memory.read_nil (a : Nat) : Memory.read [] a = Memory.unlisted := rfl

theorem Memory.read_cons (b : Nat) (w : Word) (m : Memory) (a : Nat) :
    Memory.read ((b, w) :: m) a = if b = a then w else Memory.read m a := rfl

/-- A write leaves every other word alone, in any list. -/
theorem Memory.read_write_ne (m : Memory) {a b : Nat} (v : Word) (h : b ≠ a) :
    (m.write a v).read b = m.read b := by
  induction m with
  | nil =>
    unfold Memory.write
    split
    · rfl
    · simp [Memory.read_cons, Ne.symm h]
  | cons c rest ih =>
    obtain ⟨c, w⟩ := c
    unfold Memory.write
    split
    · split
      · rfl
      · simp [Memory.read_cons, Ne.symm h]
    · split
      · next _ hc => subst hc; split <;> simp [Memory.read_cons, Ne.symm h]
      · simp [Memory.read_cons, ih]

/-- Every address of the list `m` is above `a`. -/
theorem Memory.read_of_above (m : Memory) (a : Nat) (h : ∀ c ∈ m, a < c.1) : m.read a = Memory.unlisted := by
  induction m with
  | nil => rfl
  | cons c rest ih =>
    obtain ⟨c, w⟩ := c
    have hc : a < c := h (c, w) (by simp)
    rw [Memory.read_cons, if_neg (by omega)]
    exact ih fun d hd => h d (by simp [hd])

theorem Memory.wf_iff (m : Memory) :
    m.wf = true ↔ m.Pairwise (fun c d => c.1 < d.1) ∧ ∀ c ∈ m, c.2 ≠ Memory.unlisted := by
  simp [Memory.wf]

/-- A read after a write to the same place gives the value written, in a canonical memory. -/
theorem Memory.read_write_same (m : Memory) (a : Nat) (v : Word) (h : m.wf = true) : (m.write a v).read a = v := by
  rw [Memory.wf_iff] at h
  induction m with
  | nil =>
    unfold Memory.write
    split
    · next hv => simp [hv]
    · simp [Memory.read_cons]
  | cons c rest ih =>
    obtain ⟨c, w⟩ := c
    obtain ⟨hp, hz⟩ := h
    rw [List.pairwise_cons] at hp
    unfold Memory.write
    split
    · next hlt =>
      split
      · next hv =>
        rw [hv]
        refine Memory.read_of_above _ _ fun d hd => ?_
        rcases List.mem_cons.mp hd with rfl | hd
        · exact hlt
        · exact Nat.lt_trans hlt (hp.1 d hd)
      · simp [Memory.read_cons]
    · split
      · next heq =>
        subst heq
        split
        · next hv => rw [hv]; exact Memory.read_of_above _ _ fun d hd => hp.1 d hd
        · simp [Memory.read_cons]
      · next hne =>
        rw [Memory.read_cons, if_neg (Ne.symm hne)]
        exact ih ⟨hp.2, fun d hd => hz d (by simp [hd])⟩

theorem Memory.mem_write {m : Memory} {a : Nat} {v : Word} {c : Nat × Word} (h : c ∈ m.write a v) :
    c = (a, v) ∨ c ∈ m := by
  induction m with
  | nil =>
    unfold Memory.write at h
    split at h
    · cases h
    · simpa using h
  | cons d rest ih =>
    obtain ⟨d, w⟩ := d
    unfold Memory.write at h
    split at h
    · split at h
      · exact .inr h
      · simpa using h
    · split at h
      · split at h
        · exact .inr (by simp [h])
        · rcases List.mem_cons.mp h with h | h
          · exact .inl h
          · exact .inr (by simp [h])
      · rcases List.mem_cons.mp h with h | h
        · exact .inr (by simp [h])
        · rcases ih h with h | h
          · exact .inl h
          · exact .inr (by simp [h])

/-- A write keeps the canonical form. -/
theorem Memory.write_wf (m : Memory) (a : Nat) (v : Word) (h : m.wf = true) : (m.write a v).wf = true := by
  rw [Memory.wf_iff] at h ⊢
  induction m with
  | nil =>
    unfold Memory.write
    split
    · simp
    · next hv => simp [hv]
  | cons c rest ih =>
    obtain ⟨c, w⟩ := c
    obtain ⟨hp, hz⟩ := h
    have hw : w ≠ Memory.unlisted := hz (c, w) (by simp)
    have hr : ∀ d ∈ rest, d.2 ≠ Memory.unlisted := fun d hd => hz d (by simp [hd])
    rw [List.pairwise_cons] at hp
    unfold Memory.write
    split
    · next hlt =>
      split
      · exact ⟨List.pairwise_cons.mpr hp, hz⟩
      · next hv =>
        refine ⟨List.pairwise_cons.mpr ⟨fun d hd => ?_, List.pairwise_cons.mpr hp⟩, fun d hd => ?_⟩
        · rcases List.mem_cons.mp hd with rfl | hd
          · exact hlt
          · exact Nat.lt_trans hlt (hp.1 d hd)
        · rcases List.mem_cons.mp hd with rfl | hd
          · exact hv
          · exact hz d hd
    · next hge =>
      split
      · next heq =>
        subst heq
        split
        · exact ⟨hp.2, hr⟩
        · next hv =>
          refine ⟨List.pairwise_cons.mpr hp, fun d hd => ?_⟩
          rcases List.mem_cons.mp hd with rfl | hd
          · exact hv
          · exact hr d hd
      · next hne =>
        obtain ⟨ip, iz⟩ := ih ⟨hp.2, hr⟩
        refine ⟨List.pairwise_cons.mpr ⟨fun d hd => ?_, ip⟩, fun d hd => ?_⟩
        · rcases Memory.mem_write hd with rfl | hd
          · exact Nat.lt_of_le_of_ne (Nat.le_of_not_lt hge) (Ne.symm hne)
          · exact hp.1 d hd
        · rcases List.mem_cons.mp hd with rfl | hd
          · exact hw
          · exact iz d hd

end Sys2Proof

namespace Sys2Proof.Machine

/-- The reset memory is canonical when the image it is given is. -/
theorem State.resetOf_mem_wf (p : Params) (h : p.memInit.wf = true) : (State.resetOf p).mem.wf = true := h

theorem State.reset_mem_wf : State.reset.mem.wf = true := by decide

/-- All that a read of memory can answer. -/
theorem State.memRead_ok {s : State} {a : Nat} {v : Word} (h : s.memRead a = .ok v) :
    a < s.cfg.memWords ∧ v = s.mem.read a := by
  unfold State.memRead at h
  split at h
  · next ha => exact ⟨ha, by cases h; rfl⟩
  · cases h

/-- All that a write of memory can do. -/
theorem State.memWrite_ok {s t : State} {a : Nat} {v : Word} (h : s.memWrite a v = .ok t) :
    a < s.cfg.memWords ∧ t = { s with mem := s.mem.write a v } := by
  unfold State.memWrite at h
  split at h
  · next ha => exact ⟨ha, by cases h; rfl⟩
  · cases h

end Sys2Proof.Machine
end

