-- ==== Sys2Proof/Laws/State.lean ====
section
/-! SUPPORT. One lemma per field per update of State, so that no later proof unfolds a record update. -/

namespace Sys2Proof.Machine

variable (s : State)

/-! `State.at` -/

@[simp] theorem State.at_cfg (st : Station) : (s.at st).cfg = s.cfg := rfl
@[simp] theorem State.at_regs (st : Station) : (s.at st).regs = s.regs := rfl
@[simp] theorem State.at_pc (st : Station) : (s.at st).pc = s.pc := rfl
@[simp] theorem State.at_cc (st : Station) : (s.at st).cc = s.cc := rfl
@[simp] theorem State.at_haltReached (st : Station) : (s.at st).haltReached = s.haltReached := rfl
@[simp] theorem State.at_mem (st : Station) : (s.at st).mem = s.mem := rfl
@[simp] theorem State.at_queue (st : Station) : (s.at st).queue = s.queue := rfl
@[simp] theorem State.at_pools (st : Station) : (s.at st).pools = s.pools := rfl
@[simp] theorem State.at_busy (st : Station) : (s.at st).busy = s.busy := rfl
@[simp] theorem State.at_instrTrace (st : Station) : (s.at st).instrTrace = s.instrTrace := rfl
@[simp] theorem State.at_unitTrace (st : Station) : (s.at st).unitTrace = s.unitTrace := rfl
@[simp] theorem State.at_station (st : Station) : (s.at st).station = st := rfl

/-! `State.setReg` -/

@[simp] theorem State.setReg_cfg (r : Reg) (v : Word) : (s.setReg r v).cfg = s.cfg := rfl
@[simp] theorem State.setReg_regs (r : Reg) (v : Word) : (s.setReg r v).regs = s.regs.set r v := rfl
@[simp] theorem State.setReg_pc (r : Reg) (v : Word) : (s.setReg r v).pc = s.pc := rfl
@[simp] theorem State.setReg_cc (r : Reg) (v : Word) : (s.setReg r v).cc = s.cc := rfl
@[simp] theorem State.setReg_haltReached (r : Reg) (v : Word) : (s.setReg r v).haltReached = s.haltReached := rfl
@[simp] theorem State.setReg_mem (r : Reg) (v : Word) : (s.setReg r v).mem = s.mem := rfl
@[simp] theorem State.setReg_queue (r : Reg) (v : Word) : (s.setReg r v).queue = s.queue := rfl
@[simp] theorem State.setReg_pools (r : Reg) (v : Word) : (s.setReg r v).pools = s.pools := rfl
@[simp] theorem State.setReg_busy (r : Reg) (v : Word) : (s.setReg r v).busy = s.busy := rfl
@[simp] theorem State.setReg_instrTrace (r : Reg) (v : Word) : (s.setReg r v).instrTrace = s.instrTrace := rfl
@[simp] theorem State.setReg_unitTrace (r : Reg) (v : Word) : (s.setReg r v).unitTrace = s.unitTrace := rfl
@[simp] theorem State.setReg_station (r : Reg) (v : Word) : (s.setReg r v).station = s.station := rfl

/-! `State.setOwner` -/

@[simp] theorem State.setOwner_cfg (r : Reg) (o : Option UnitId) : (s.setOwner r o).cfg = s.cfg := rfl
@[simp] theorem State.setOwner_regs (r : Reg) (o : Option UnitId) : (s.setOwner r o).regs = s.regs := rfl
@[simp] theorem State.setOwner_pc (r : Reg) (o : Option UnitId) : (s.setOwner r o).pc = s.pc := rfl
@[simp] theorem State.setOwner_cc (r : Reg) (o : Option UnitId) : (s.setOwner r o).cc = s.cc := rfl
@[simp] theorem State.setOwner_haltReached (r : Reg) (o : Option UnitId) : (s.setOwner r o).haltReached = s.haltReached := rfl
@[simp] theorem State.setOwner_mem (r : Reg) (o : Option UnitId) : (s.setOwner r o).mem = s.mem := rfl
@[simp] theorem State.setOwner_queue (r : Reg) (o : Option UnitId) : (s.setOwner r o).queue = s.queue := rfl
@[simp] theorem State.setOwner_pools (r : Reg) (o : Option UnitId) : (s.setOwner r o).pools = s.pools := rfl
@[simp] theorem State.setOwner_busy (r : Reg) (o : Option UnitId) : (s.setOwner r o).busy = s.busy.set r o := rfl
@[simp] theorem State.setOwner_instrTrace (r : Reg) (o : Option UnitId) : (s.setOwner r o).instrTrace = s.instrTrace := rfl
@[simp] theorem State.setOwner_unitTrace (r : Reg) (o : Option UnitId) : (s.setOwner r o).unitTrace = s.unitTrace := rfl
@[simp] theorem State.setOwner_station (r : Reg) (o : Option UnitId) : (s.setOwner r o).station = s.station := rfl

/-! `State.updateUnit` -/

@[simp] theorem State.updateUnit_cfg (u : UnitId) (f : FunctionalUnit → FunctionalUnit) : (s.updateUnit u f).cfg = s.cfg := rfl
@[simp] theorem State.updateUnit_regs (u : UnitId) (f : FunctionalUnit → FunctionalUnit) : (s.updateUnit u f).regs = s.regs := rfl
@[simp] theorem State.updateUnit_pc (u : UnitId) (f : FunctionalUnit → FunctionalUnit) : (s.updateUnit u f).pc = s.pc := rfl
@[simp] theorem State.updateUnit_cc (u : UnitId) (f : FunctionalUnit → FunctionalUnit) : (s.updateUnit u f).cc = s.cc := rfl
@[simp] theorem State.updateUnit_haltReached (u : UnitId) (f : FunctionalUnit → FunctionalUnit) : (s.updateUnit u f).haltReached = s.haltReached := rfl
@[simp] theorem State.updateUnit_mem (u : UnitId) (f : FunctionalUnit → FunctionalUnit) : (s.updateUnit u f).mem = s.mem := rfl
@[simp] theorem State.updateUnit_queue (u : UnitId) (f : FunctionalUnit → FunctionalUnit) : (s.updateUnit u f).queue = s.queue := rfl
@[simp] theorem State.updateUnit_pools (u : UnitId) (f : FunctionalUnit → FunctionalUnit) : (s.updateUnit u f).pools = s.pools.update u.kind fun us => us.modify u.idx f := rfl
@[simp] theorem State.updateUnit_busy (u : UnitId) (f : FunctionalUnit → FunctionalUnit) : (s.updateUnit u f).busy = s.busy := rfl
@[simp] theorem State.updateUnit_instrTrace (u : UnitId) (f : FunctionalUnit → FunctionalUnit) : (s.updateUnit u f).instrTrace = s.instrTrace := rfl
@[simp] theorem State.updateUnit_unitTrace (u : UnitId) (f : FunctionalUnit → FunctionalUnit) : (s.updateUnit u f).unitTrace = s.unitTrace := rfl
@[simp] theorem State.updateUnit_station (u : UnitId) (f : FunctionalUnit → FunctionalUnit) : (s.updateUnit u f).station = s.station := rfl

/-! `State.updateRecord` -/

@[simp] theorem State.updateRecord_cfg (n : Nat) (f : InstrRecord → InstrRecord) : (s.updateRecord n f).cfg = s.cfg := rfl
@[simp] theorem State.updateRecord_regs (n : Nat) (f : InstrRecord → InstrRecord) : (s.updateRecord n f).regs = s.regs := rfl
@[simp] theorem State.updateRecord_pc (n : Nat) (f : InstrRecord → InstrRecord) : (s.updateRecord n f).pc = s.pc := rfl
@[simp] theorem State.updateRecord_cc (n : Nat) (f : InstrRecord → InstrRecord) : (s.updateRecord n f).cc = s.cc := rfl
@[simp] theorem State.updateRecord_haltReached (n : Nat) (f : InstrRecord → InstrRecord) : (s.updateRecord n f).haltReached = s.haltReached := rfl
@[simp] theorem State.updateRecord_mem (n : Nat) (f : InstrRecord → InstrRecord) : (s.updateRecord n f).mem = s.mem := rfl
@[simp] theorem State.updateRecord_queue (n : Nat) (f : InstrRecord → InstrRecord) : (s.updateRecord n f).queue = s.queue.modify n f := rfl
@[simp] theorem State.updateRecord_pools (n : Nat) (f : InstrRecord → InstrRecord) : (s.updateRecord n f).pools = s.pools := rfl
@[simp] theorem State.updateRecord_busy (n : Nat) (f : InstrRecord → InstrRecord) : (s.updateRecord n f).busy = s.busy := rfl
@[simp] theorem State.updateRecord_instrTrace (n : Nat) (f : InstrRecord → InstrRecord) : (s.updateRecord n f).instrTrace = s.instrTrace := rfl
@[simp] theorem State.updateRecord_unitTrace (n : Nat) (f : InstrRecord → InstrRecord) : (s.updateRecord n f).unitTrace = s.unitTrace := rfl
@[simp] theorem State.updateRecord_station (n : Nat) (f : InstrRecord → InstrRecord) : (s.updateRecord n f).station = s.station := rfl

/-! `State.compact` -/

@[simp] theorem State.compact_cfg : (s.compact).cfg = s.cfg := rfl
@[simp] theorem State.compact_regs : (s.compact).regs = s.regs := rfl
@[simp] theorem State.compact_pc : (s.compact).pc = s.pc := rfl
@[simp] theorem State.compact_cc : (s.compact).cc = s.cc := rfl
@[simp] theorem State.compact_haltReached : (s.compact).haltReached = s.haltReached := rfl
@[simp] theorem State.compact_mem : (s.compact).mem = s.mem := rfl
@[simp] theorem State.compact_queue : (s.compact).queue = s.queue.filter InstrRecord.kept := rfl
@[simp] theorem State.compact_pools : (s.compact).pools = s.pools.map fun us => us.map (FunctionalUnit.remap s.queue) := rfl
@[simp] theorem State.compact_busy : (s.compact).busy = s.busy := rfl
@[simp] theorem State.compact_instrTrace : (s.compact).instrTrace = s.instrTrace := rfl
@[simp] theorem State.compact_unitTrace : (s.compact).unitTrace = s.unitTrace := rfl
@[simp] theorem State.compact_station : (s.compact).station = s.station := rfl

/-! `State.setWaw` -/

@[simp] theorem State.setWaw_cfg (u : UnitId) (b : Bool) : (s.setWaw u b).cfg = s.cfg := rfl
@[simp] theorem State.setWaw_regs (u : UnitId) (b : Bool) : (s.setWaw u b).regs = s.regs := rfl
@[simp] theorem State.setWaw_pc (u : UnitId) (b : Bool) : (s.setWaw u b).pc = s.pc := rfl
@[simp] theorem State.setWaw_cc (u : UnitId) (b : Bool) : (s.setWaw u b).cc = s.cc := rfl
@[simp] theorem State.setWaw_haltReached (u : UnitId) (b : Bool) : (s.setWaw u b).haltReached = s.haltReached := rfl
@[simp] theorem State.setWaw_mem (u : UnitId) (b : Bool) : (s.setWaw u b).mem = s.mem := rfl
@[simp] theorem State.setWaw_queue (u : UnitId) (b : Bool) : (s.setWaw u b).queue = s.queue := rfl
@[simp] theorem State.setWaw_pools (u : UnitId) (b : Bool) : (s.setWaw u b).pools = s.pools.update u.kind fun us => us.modify u.idx fun f => { f with waw := b } := rfl
@[simp] theorem State.setWaw_busy (u : UnitId) (b : Bool) : (s.setWaw u b).busy = s.busy := rfl
@[simp] theorem State.setWaw_instrTrace (u : UnitId) (b : Bool) : (s.setWaw u b).instrTrace = s.instrTrace := rfl
@[simp] theorem State.setWaw_unitTrace (u : UnitId) (b : Bool) : (s.setWaw u b).unitTrace = s.unitTrace := rfl
@[simp] theorem State.setWaw_station (u : UnitId) (b : Bool) : (s.setWaw u b).station = s.station := rfl

/-! `State.countDown` -/

@[simp] theorem State.countDown_cfg (u : UnitId) : (s.countDown u).cfg = s.cfg := rfl
@[simp] theorem State.countDown_regs (u : UnitId) : (s.countDown u).regs = s.regs := rfl
@[simp] theorem State.countDown_pc (u : UnitId) : (s.countDown u).pc = s.pc := rfl
@[simp] theorem State.countDown_cc (u : UnitId) : (s.countDown u).cc = s.cc := rfl
@[simp] theorem State.countDown_haltReached (u : UnitId) : (s.countDown u).haltReached = s.haltReached := rfl
@[simp] theorem State.countDown_mem (u : UnitId) : (s.countDown u).mem = s.mem := rfl
@[simp] theorem State.countDown_queue (u : UnitId) : (s.countDown u).queue = s.queue := rfl
@[simp] theorem State.countDown_busy (u : UnitId) : (s.countDown u).busy = s.busy := rfl
@[simp] theorem State.countDown_instrTrace (u : UnitId) : (s.countDown u).instrTrace = s.instrTrace := rfl
@[simp] theorem State.countDown_unitTrace (u : UnitId) : (s.countDown u).unitTrace = s.unitTrace := rfl
@[simp] theorem State.countDown_station (u : UnitId) : (s.countDown u).station = s.station := rfl

/-! `State.resetUnit` -/

@[simp] theorem State.resetUnit_cfg (u : UnitId) : (s.resetUnit u).cfg = s.cfg := rfl
@[simp] theorem State.resetUnit_regs (u : UnitId) : (s.resetUnit u).regs = s.regs := rfl
@[simp] theorem State.resetUnit_pc (u : UnitId) : (s.resetUnit u).pc = s.pc := rfl
@[simp] theorem State.resetUnit_cc (u : UnitId) : (s.resetUnit u).cc = s.cc := rfl
@[simp] theorem State.resetUnit_haltReached (u : UnitId) : (s.resetUnit u).haltReached = s.haltReached := rfl
@[simp] theorem State.resetUnit_mem (u : UnitId) : (s.resetUnit u).mem = s.mem := rfl
@[simp] theorem State.resetUnit_queue (u : UnitId) : (s.resetUnit u).queue = s.queue := rfl
@[simp] theorem State.resetUnit_busy (u : UnitId) : (s.resetUnit u).busy = s.busy := rfl
@[simp] theorem State.resetUnit_instrTrace (u : UnitId) : (s.resetUnit u).instrTrace = s.instrTrace := rfl
@[simp] theorem State.resetUnit_unitTrace (u : UnitId) : (s.resetUnit u).unitTrace = s.unitTrace := rfl
@[simp] theorem State.resetUnit_station (u : UnitId) : (s.resetUnit u).station = s.station := rfl

/-! `State.sampleSources` -/

@[simp] theorem State.sampleSources_cfg (u : UnitId) (dst src0 src1 : Reg) : (s.sampleSources u dst src0 src1).cfg = s.cfg := rfl
@[simp] theorem State.sampleSources_regs (u : UnitId) (dst src0 src1 : Reg) : (s.sampleSources u dst src0 src1).regs = s.regs := rfl
@[simp] theorem State.sampleSources_pc (u : UnitId) (dst src0 src1 : Reg) : (s.sampleSources u dst src0 src1).pc = s.pc := rfl
@[simp] theorem State.sampleSources_cc (u : UnitId) (dst src0 src1 : Reg) : (s.sampleSources u dst src0 src1).cc = s.cc := rfl
@[simp] theorem State.sampleSources_haltReached (u : UnitId) (dst src0 src1 : Reg) : (s.sampleSources u dst src0 src1).haltReached = s.haltReached := rfl
@[simp] theorem State.sampleSources_mem (u : UnitId) (dst src0 src1 : Reg) : (s.sampleSources u dst src0 src1).mem = s.mem := rfl
@[simp] theorem State.sampleSources_queue (u : UnitId) (dst src0 src1 : Reg) : (s.sampleSources u dst src0 src1).queue = s.queue := rfl
@[simp] theorem State.sampleSources_busy (u : UnitId) (dst src0 src1 : Reg) : (s.sampleSources u dst src0 src1).busy = s.busy := rfl
@[simp] theorem State.sampleSources_instrTrace (u : UnitId) (dst src0 src1 : Reg) : (s.sampleSources u dst src0 src1).instrTrace = s.instrTrace := rfl
@[simp] theorem State.sampleSources_unitTrace (u : UnitId) (dst src0 src1 : Reg) : (s.sampleSources u dst src0 src1).unitTrace = s.unitTrace := rfl
@[simp] theorem State.sampleSources_station (u : UnitId) (dst src0 src1 : Reg) : (s.sampleSources u dst src0 src1).station = s.station := rfl

/-! `State.refreshReadiness` -/

@[simp] theorem State.refreshReadiness_cfg (u : UnitId) (src0 src1 : Reg) : (s.refreshReadiness u src0 src1).cfg = s.cfg := rfl
@[simp] theorem State.refreshReadiness_regs (u : UnitId) (src0 src1 : Reg) : (s.refreshReadiness u src0 src1).regs = s.regs := rfl
@[simp] theorem State.refreshReadiness_pc (u : UnitId) (src0 src1 : Reg) : (s.refreshReadiness u src0 src1).pc = s.pc := rfl
@[simp] theorem State.refreshReadiness_cc (u : UnitId) (src0 src1 : Reg) : (s.refreshReadiness u src0 src1).cc = s.cc := rfl
@[simp] theorem State.refreshReadiness_haltReached (u : UnitId) (src0 src1 : Reg) : (s.refreshReadiness u src0 src1).haltReached = s.haltReached := rfl
@[simp] theorem State.refreshReadiness_mem (u : UnitId) (src0 src1 : Reg) : (s.refreshReadiness u src0 src1).mem = s.mem := rfl
@[simp] theorem State.refreshReadiness_queue (u : UnitId) (src0 src1 : Reg) : (s.refreshReadiness u src0 src1).queue = s.queue := rfl
@[simp] theorem State.refreshReadiness_busy (u : UnitId) (src0 src1 : Reg) : (s.refreshReadiness u src0 src1).busy = s.busy := rfl
@[simp] theorem State.refreshReadiness_instrTrace (u : UnitId) (src0 src1 : Reg) : (s.refreshReadiness u src0 src1).instrTrace = s.instrTrace := rfl
@[simp] theorem State.refreshReadiness_unitTrace (u : UnitId) (src0 src1 : Reg) : (s.refreshReadiness u src0 src1).unitTrace = s.unitTrace := rfl
@[simp] theorem State.refreshReadiness_station (u : UnitId) (src0 src1 : Reg) : (s.refreshReadiness u src0 src1).station = s.station := rfl

/-! `State.storeBump` -/

@[simp] theorem State.storeBump_cfg (u : UnitId) (imm : Addr) : (s.storeBump u imm).cfg = s.cfg := rfl
@[simp] theorem State.storeBump_regs (u : UnitId) (imm : Addr) : (s.storeBump u imm).regs = s.regs := rfl
@[simp] theorem State.storeBump_pc (u : UnitId) (imm : Addr) : (s.storeBump u imm).pc = s.pc := rfl
@[simp] theorem State.storeBump_cc (u : UnitId) (imm : Addr) : (s.storeBump u imm).cc = s.cc := rfl
@[simp] theorem State.storeBump_haltReached (u : UnitId) (imm : Addr) : (s.storeBump u imm).haltReached = s.haltReached := rfl
@[simp] theorem State.storeBump_mem (u : UnitId) (imm : Addr) : (s.storeBump u imm).mem = s.mem := rfl
@[simp] theorem State.storeBump_queue (u : UnitId) (imm : Addr) : (s.storeBump u imm).queue = s.queue := rfl
@[simp] theorem State.storeBump_busy (u : UnitId) (imm : Addr) : (s.storeBump u imm).busy = s.busy := rfl
@[simp] theorem State.storeBump_instrTrace (u : UnitId) (imm : Addr) : (s.storeBump u imm).instrTrace = s.instrTrace := rfl
@[simp] theorem State.storeBump_unitTrace (u : UnitId) (imm : Addr) : (s.storeBump u imm).unitTrace = s.unitTrace := rfl
@[simp] theorem State.storeBump_station (u : UnitId) (imm : Addr) : (s.storeBump u imm).station = s.station := rfl

/-! `State.occupy` -/

@[simp] theorem State.occupy_cfg (u : UnitId) (n : Nat) : (s.occupy u n).cfg = s.cfg := rfl
@[simp] theorem State.occupy_regs (u : UnitId) (n : Nat) : (s.occupy u n).regs = s.regs := rfl
@[simp] theorem State.occupy_pc (u : UnitId) (n : Nat) : (s.occupy u n).pc = s.pc := rfl
@[simp] theorem State.occupy_cc (u : UnitId) (n : Nat) : (s.occupy u n).cc = s.cc := rfl
@[simp] theorem State.occupy_haltReached (u : UnitId) (n : Nat) : (s.occupy u n).haltReached = s.haltReached := rfl
@[simp] theorem State.occupy_mem (u : UnitId) (n : Nat) : (s.occupy u n).mem = s.mem := rfl
@[simp] theorem State.occupy_busy (u : UnitId) (n : Nat) : (s.occupy u n).busy = s.busy := rfl
@[simp] theorem State.occupy_instrTrace (u : UnitId) (n : Nat) : (s.occupy u n).instrTrace = s.instrTrace := rfl
@[simp] theorem State.occupy_unitTrace (u : UnitId) (n : Nat) : (s.occupy u n).unitTrace = s.unitTrace := rfl
@[simp] theorem State.occupy_station (u : UnitId) (n : Nat) : (s.occupy u n).station = s.station := rfl

/-! `State.updateInst` -/

@[simp] theorem State.updateInst_cfg (u : UnitId) (f : InstrRecord → InstrRecord) : (s.updateInst u f).cfg = s.cfg := by
  unfold State.updateInst; split <;> rfl
@[simp] theorem State.updateInst_regs (u : UnitId) (f : InstrRecord → InstrRecord) : (s.updateInst u f).regs = s.regs := by
  unfold State.updateInst; split <;> rfl
@[simp] theorem State.updateInst_pc (u : UnitId) (f : InstrRecord → InstrRecord) : (s.updateInst u f).pc = s.pc := by
  unfold State.updateInst; split <;> rfl
@[simp] theorem State.updateInst_cc (u : UnitId) (f : InstrRecord → InstrRecord) : (s.updateInst u f).cc = s.cc := by
  unfold State.updateInst; split <;> rfl
@[simp] theorem State.updateInst_haltReached (u : UnitId) (f : InstrRecord → InstrRecord) : (s.updateInst u f).haltReached = s.haltReached := by
  unfold State.updateInst; split <;> rfl
@[simp] theorem State.updateInst_mem (u : UnitId) (f : InstrRecord → InstrRecord) : (s.updateInst u f).mem = s.mem := by
  unfold State.updateInst; split <;> rfl
@[simp] theorem State.updateInst_pools (u : UnitId) (f : InstrRecord → InstrRecord) : (s.updateInst u f).pools = s.pools := by
  unfold State.updateInst; split <;> rfl
@[simp] theorem State.updateInst_busy (u : UnitId) (f : InstrRecord → InstrRecord) : (s.updateInst u f).busy = s.busy := by
  unfold State.updateInst; split <;> rfl
@[simp] theorem State.updateInst_instrTrace (u : UnitId) (f : InstrRecord → InstrRecord) : (s.updateInst u f).instrTrace = s.instrTrace := by
  unfold State.updateInst; split <;> rfl
@[simp] theorem State.updateInst_unitTrace (u : UnitId) (f : InstrRecord → InstrRecord) : (s.updateInst u f).unitTrace = s.unitTrace := by
  unfold State.updateInst; split <;> rfl
@[simp] theorem State.updateInst_station (u : UnitId) (f : InstrRecord → InstrRecord) : (s.updateInst u f).station = s.station := by
  unfold State.updateInst; split <;> rfl

/-! `State.logInst` -/

@[simp] theorem State.logInst_cfg (u : UnitId) : (s.logInst u).cfg = s.cfg := by
  unfold State.logInst; split <;> rfl
@[simp] theorem State.logInst_regs (u : UnitId) : (s.logInst u).regs = s.regs := by
  unfold State.logInst; split <;> rfl
@[simp] theorem State.logInst_pc (u : UnitId) : (s.logInst u).pc = s.pc := by
  unfold State.logInst; split <;> rfl
@[simp] theorem State.logInst_cc (u : UnitId) : (s.logInst u).cc = s.cc := by
  unfold State.logInst; split <;> rfl
@[simp] theorem State.logInst_haltReached (u : UnitId) : (s.logInst u).haltReached = s.haltReached := by
  unfold State.logInst; split <;> rfl
@[simp] theorem State.logInst_mem (u : UnitId) : (s.logInst u).mem = s.mem := by
  unfold State.logInst; split <;> rfl
@[simp] theorem State.logInst_queue (u : UnitId) : (s.logInst u).queue = s.queue := by
  unfold State.logInst; split <;> rfl
@[simp] theorem State.logInst_pools (u : UnitId) : (s.logInst u).pools = s.pools := by
  unfold State.logInst; split <;> rfl
@[simp] theorem State.logInst_busy (u : UnitId) : (s.logInst u).busy = s.busy := by
  unfold State.logInst; split <;> rfl
@[simp] theorem State.logInst_unitTrace (u : UnitId) : (s.logInst u).unitTrace = s.unitTrace := by
  unfold State.logInst; split <;> rfl
@[simp] theorem State.logInst_station (u : UnitId) : (s.logInst u).station = s.station := by
  unfold State.logInst; split <;> rfl

/-! `State.claimDestination` -/

@[simp] theorem State.claimDestination_cfg (u : UnitId) (dst : Reg) : (s.claimDestination u dst).cfg = s.cfg := by
  unfold State.claimDestination; split <;> rfl
@[simp] theorem State.claimDestination_regs (u : UnitId) (dst : Reg) : (s.claimDestination u dst).regs = s.regs := by
  unfold State.claimDestination; split <;> rfl
@[simp] theorem State.claimDestination_pc (u : UnitId) (dst : Reg) : (s.claimDestination u dst).pc = s.pc := by
  unfold State.claimDestination; split <;> rfl
@[simp] theorem State.claimDestination_cc (u : UnitId) (dst : Reg) : (s.claimDestination u dst).cc = s.cc := by
  unfold State.claimDestination; split <;> rfl
@[simp] theorem State.claimDestination_haltReached (u : UnitId) (dst : Reg) : (s.claimDestination u dst).haltReached = s.haltReached := by
  unfold State.claimDestination; split <;> rfl
@[simp] theorem State.claimDestination_mem (u : UnitId) (dst : Reg) : (s.claimDestination u dst).mem = s.mem := by
  unfold State.claimDestination; split <;> rfl
@[simp] theorem State.claimDestination_queue (u : UnitId) (dst : Reg) : (s.claimDestination u dst).queue = s.queue := by
  unfold State.claimDestination; split <;> rfl
@[simp] theorem State.claimDestination_instrTrace (u : UnitId) (dst : Reg) : (s.claimDestination u dst).instrTrace = s.instrTrace := by
  unfold State.claimDestination; split <;> rfl
@[simp] theorem State.claimDestination_unitTrace (u : UnitId) (dst : Reg) : (s.claimDestination u dst).unitTrace = s.unitTrace := by
  unfold State.claimDestination; split <;> rfl
@[simp] theorem State.claimDestination_station (u : UnitId) (dst : Reg) : (s.claimDestination u dst).station = s.station := by
  unfold State.claimDestination; split <;> rfl

/-! `State.wawClaim` -/

@[simp] theorem State.wawClaim_cfg (u : UnitId) (dst : Reg) : (s.wawClaim u dst).cfg = s.cfg := by
  unfold State.wawClaim; split <;> rfl
@[simp] theorem State.wawClaim_regs (u : UnitId) (dst : Reg) : (s.wawClaim u dst).regs = s.regs := by
  unfold State.wawClaim; split <;> rfl
@[simp] theorem State.wawClaim_pc (u : UnitId) (dst : Reg) : (s.wawClaim u dst).pc = s.pc := by
  unfold State.wawClaim; split <;> rfl
@[simp] theorem State.wawClaim_cc (u : UnitId) (dst : Reg) : (s.wawClaim u dst).cc = s.cc := by
  unfold State.wawClaim; split <;> rfl
@[simp] theorem State.wawClaim_haltReached (u : UnitId) (dst : Reg) : (s.wawClaim u dst).haltReached = s.haltReached := by
  unfold State.wawClaim; split <;> rfl
@[simp] theorem State.wawClaim_mem (u : UnitId) (dst : Reg) : (s.wawClaim u dst).mem = s.mem := by
  unfold State.wawClaim; split <;> rfl
@[simp] theorem State.wawClaim_queue (u : UnitId) (dst : Reg) : (s.wawClaim u dst).queue = s.queue := by
  unfold State.wawClaim; split <;> rfl
@[simp] theorem State.wawClaim_pools (u : UnitId) (dst : Reg) : (s.wawClaim u dst).pools = s.pools := by
  unfold State.wawClaim; split <;> rfl
@[simp] theorem State.wawClaim_instrTrace (u : UnitId) (dst : Reg) : (s.wawClaim u dst).instrTrace = s.instrTrace := by
  unfold State.wawClaim; split <;> rfl
@[simp] theorem State.wawClaim_unitTrace (u : UnitId) (dst : Reg) : (s.wawClaim u dst).unitTrace = s.unitTrace := by
  unfold State.wawClaim; split <;> rfl
@[simp] theorem State.wawClaim_station (u : UnitId) (dst : Reg) : (s.wawClaim u dst).station = s.station := by
  unfold State.wawClaim; split <;> rfl

/-! `State.releaseDestination` -/

@[simp] theorem State.releaseDestination_cfg (u : UnitId) (dst : Reg) : (s.releaseDestination u dst).cfg = s.cfg := by
  unfold State.releaseDestination; split <;> rfl
@[simp] theorem State.releaseDestination_regs (u : UnitId) (dst : Reg) : (s.releaseDestination u dst).regs = s.regs := by
  unfold State.releaseDestination; split <;> rfl
@[simp] theorem State.releaseDestination_pc (u : UnitId) (dst : Reg) : (s.releaseDestination u dst).pc = s.pc := by
  unfold State.releaseDestination; split <;> rfl
@[simp] theorem State.releaseDestination_cc (u : UnitId) (dst : Reg) : (s.releaseDestination u dst).cc = s.cc := by
  unfold State.releaseDestination; split <;> rfl
@[simp] theorem State.releaseDestination_haltReached (u : UnitId) (dst : Reg) : (s.releaseDestination u dst).haltReached = s.haltReached := by
  unfold State.releaseDestination; split <;> rfl
@[simp] theorem State.releaseDestination_mem (u : UnitId) (dst : Reg) : (s.releaseDestination u dst).mem = s.mem := by
  unfold State.releaseDestination; split <;> rfl
@[simp] theorem State.releaseDestination_queue (u : UnitId) (dst : Reg) : (s.releaseDestination u dst).queue = s.queue := by
  unfold State.releaseDestination; split <;> rfl
@[simp] theorem State.releaseDestination_pools (u : UnitId) (dst : Reg) : (s.releaseDestination u dst).pools = s.pools := by
  unfold State.releaseDestination; split <;> rfl
@[simp] theorem State.releaseDestination_instrTrace (u : UnitId) (dst : Reg) : (s.releaseDestination u dst).instrTrace = s.instrTrace := by
  unfold State.releaseDestination; split <;> rfl
@[simp] theorem State.releaseDestination_unitTrace (u : UnitId) (dst : Reg) : (s.releaseDestination u dst).unitTrace = s.unitTrace := by
  unfold State.releaseDestination; split <;> rfl
@[simp] theorem State.releaseDestination_station (u : UnitId) (dst : Reg) : (s.releaseDestination u dst).station = s.station := by
  unfold State.releaseDestination; split <;> rfl

/-! `State.emitUnitTrace` -/

@[simp] theorem State.emitUnitTrace_cfg : (s.emitUnitTrace).cfg = s.cfg := by
  unfold State.emitUnitTrace; split <;> rfl
@[simp] theorem State.emitUnitTrace_regs : (s.emitUnitTrace).regs = s.regs := by
  unfold State.emitUnitTrace; split <;> rfl
@[simp] theorem State.emitUnitTrace_pc : (s.emitUnitTrace).pc = s.pc := by
  unfold State.emitUnitTrace; split <;> rfl
@[simp] theorem State.emitUnitTrace_cc : (s.emitUnitTrace).cc = s.cc := by
  unfold State.emitUnitTrace; split <;> rfl
@[simp] theorem State.emitUnitTrace_haltReached : (s.emitUnitTrace).haltReached = s.haltReached := by
  unfold State.emitUnitTrace; split <;> rfl
@[simp] theorem State.emitUnitTrace_mem : (s.emitUnitTrace).mem = s.mem := by
  unfold State.emitUnitTrace; split <;> rfl
@[simp] theorem State.emitUnitTrace_queue : (s.emitUnitTrace).queue = s.queue := by
  unfold State.emitUnitTrace; split <;> rfl
@[simp] theorem State.emitUnitTrace_pools : (s.emitUnitTrace).pools = s.pools := by
  unfold State.emitUnitTrace; split <;> rfl
@[simp] theorem State.emitUnitTrace_busy : (s.emitUnitTrace).busy = s.busy := by
  unfold State.emitUnitTrace; split <;> rfl
@[simp] theorem State.emitUnitTrace_instrTrace : (s.emitUnitTrace).instrTrace = s.instrTrace := by
  unfold State.emitUnitTrace; split <;> rfl
@[simp] theorem State.emitUnitTrace_station : (s.emitUnitTrace).station = s.station := by
  unfold State.emitUnitTrace; split <;> rfl

/-! `State.stampExec` -/

@[simp] theorem State.stampExec_cfg (u : UnitId) : (s.stampExec u).cfg = s.cfg := by
  simp [State.stampExec]
@[simp] theorem State.stampExec_regs (u : UnitId) : (s.stampExec u).regs = s.regs := by
  simp [State.stampExec]
@[simp] theorem State.stampExec_pc (u : UnitId) : (s.stampExec u).pc = s.pc := by
  simp [State.stampExec]
@[simp] theorem State.stampExec_cc (u : UnitId) : (s.stampExec u).cc = s.cc := by
  simp [State.stampExec]
@[simp] theorem State.stampExec_haltReached (u : UnitId) : (s.stampExec u).haltReached = s.haltReached := by
  simp [State.stampExec]
@[simp] theorem State.stampExec_mem (u : UnitId) : (s.stampExec u).mem = s.mem := by
  simp [State.stampExec]
@[simp] theorem State.stampExec_pools (u : UnitId) : (s.stampExec u).pools = s.pools := by
  simp [State.stampExec]
@[simp] theorem State.stampExec_busy (u : UnitId) : (s.stampExec u).busy = s.busy := by
  simp [State.stampExec]
@[simp] theorem State.stampExec_instrTrace (u : UnitId) : (s.stampExec u).instrTrace = s.instrTrace := by
  simp [State.stampExec]
@[simp] theorem State.stampExec_unitTrace (u : UnitId) : (s.stampExec u).unitTrace = s.unitTrace := by
  simp [State.stampExec]
@[simp] theorem State.stampExec_station (u : UnitId) : (s.stampExec u).station = s.station := by
  simp [State.stampExec]

/-! `State.stampWrite` -/

@[simp] theorem State.stampWrite_cfg (u : UnitId) : (s.stampWrite u).cfg = s.cfg := by
  simp [State.stampWrite]
@[simp] theorem State.stampWrite_regs (u : UnitId) : (s.stampWrite u).regs = s.regs := by
  simp [State.stampWrite]
@[simp] theorem State.stampWrite_pc (u : UnitId) : (s.stampWrite u).pc = s.pc := by
  simp [State.stampWrite]
@[simp] theorem State.stampWrite_cc (u : UnitId) : (s.stampWrite u).cc = s.cc := by
  simp [State.stampWrite]
@[simp] theorem State.stampWrite_haltReached (u : UnitId) : (s.stampWrite u).haltReached = s.haltReached := by
  simp [State.stampWrite]
@[simp] theorem State.stampWrite_mem (u : UnitId) : (s.stampWrite u).mem = s.mem := by
  simp [State.stampWrite]
@[simp] theorem State.stampWrite_pools (u : UnitId) : (s.stampWrite u).pools = s.pools := by
  simp [State.stampWrite]
@[simp] theorem State.stampWrite_busy (u : UnitId) : (s.stampWrite u).busy = s.busy := by
  simp [State.stampWrite]
@[simp] theorem State.stampWrite_unitTrace (u : UnitId) : (s.stampWrite u).unitTrace = s.unitTrace := by
  simp [State.stampWrite]
@[simp] theorem State.stampWrite_station (u : UnitId) : (s.stampWrite u).station = s.station := by
  simp [State.stampWrite]

/-! `State.startReading` -/

@[simp] theorem State.startReading_cfg (u : UnitId) : (s.startReading u).cfg = s.cfg := by
  simp [State.startReading]
@[simp] theorem State.startReading_regs (u : UnitId) : (s.startReading u).regs = s.regs := by
  simp [State.startReading]
@[simp] theorem State.startReading_pc (u : UnitId) : (s.startReading u).pc = s.pc := by
  simp [State.startReading]
@[simp] theorem State.startReading_cc (u : UnitId) : (s.startReading u).cc = s.cc := by
  simp [State.startReading]
@[simp] theorem State.startReading_haltReached (u : UnitId) : (s.startReading u).haltReached = s.haltReached := by
  simp [State.startReading]
@[simp] theorem State.startReading_mem (u : UnitId) : (s.startReading u).mem = s.mem := by
  simp [State.startReading]
@[simp] theorem State.startReading_busy (u : UnitId) : (s.startReading u).busy = s.busy := by
  simp [State.startReading]
@[simp] theorem State.startReading_instrTrace (u : UnitId) : (s.startReading u).instrTrace = s.instrTrace := by
  simp [State.startReading]
@[simp] theorem State.startReading_unitTrace (u : UnitId) : (s.startReading u).unitTrace = s.unitTrace := by
  simp [State.startReading]
@[simp] theorem State.startReading_station (u : UnitId) : (s.startReading u).station = s.station := by
  simp [State.startReading]

/-! `State.issueWriter` -/

@[simp] theorem State.issueWriter_cfg (u : UnitId) (n : Nat) (dst src0 src1 : Reg) : (s.issueWriter u n dst src0 src1).cfg = s.cfg := by
  simp [State.issueWriter]
@[simp] theorem State.issueWriter_regs (u : UnitId) (n : Nat) (dst src0 src1 : Reg) : (s.issueWriter u n dst src0 src1).regs = s.regs := by
  simp [State.issueWriter]
@[simp] theorem State.issueWriter_pc (u : UnitId) (n : Nat) (dst src0 src1 : Reg) : (s.issueWriter u n dst src0 src1).pc = s.pc := by
  simp [State.issueWriter]
@[simp] theorem State.issueWriter_cc (u : UnitId) (n : Nat) (dst src0 src1 : Reg) : (s.issueWriter u n dst src0 src1).cc = s.cc := by
  simp [State.issueWriter]
@[simp] theorem State.issueWriter_haltReached (u : UnitId) (n : Nat) (dst src0 src1 : Reg) : (s.issueWriter u n dst src0 src1).haltReached = s.haltReached := by
  simp [State.issueWriter]
@[simp] theorem State.issueWriter_mem (u : UnitId) (n : Nat) (dst src0 src1 : Reg) : (s.issueWriter u n dst src0 src1).mem = s.mem := by
  simp [State.issueWriter]
@[simp] theorem State.issueWriter_instrTrace (u : UnitId) (n : Nat) (dst src0 src1 : Reg) : (s.issueWriter u n dst src0 src1).instrTrace = s.instrTrace := by
  simp [State.issueWriter]
@[simp] theorem State.issueWriter_unitTrace (u : UnitId) (n : Nat) (dst src0 src1 : Reg) : (s.issueWriter u n dst src0 src1).unitTrace = s.unitTrace := by
  simp [State.issueWriter]
@[simp] theorem State.issueWriter_station (u : UnitId) (n : Nat) (dst src0 src1 : Reg) : (s.issueWriter u n dst src0 src1).station = s.station := by
  simp [State.issueWriter]

/-! `State.issueStore` -/

@[simp] theorem State.issueStore_cfg (u : UnitId) (n : Nat) (dst src0 src1 : Reg) : (s.issueStore u n dst src0 src1).cfg = s.cfg := by
  simp [State.issueStore]
@[simp] theorem State.issueStore_regs (u : UnitId) (n : Nat) (dst src0 src1 : Reg) : (s.issueStore u n dst src0 src1).regs = s.regs := by
  simp [State.issueStore]
@[simp] theorem State.issueStore_pc (u : UnitId) (n : Nat) (dst src0 src1 : Reg) : (s.issueStore u n dst src0 src1).pc = s.pc := by
  simp [State.issueStore]
@[simp] theorem State.issueStore_cc (u : UnitId) (n : Nat) (dst src0 src1 : Reg) : (s.issueStore u n dst src0 src1).cc = s.cc := by
  simp [State.issueStore]
@[simp] theorem State.issueStore_haltReached (u : UnitId) (n : Nat) (dst src0 src1 : Reg) : (s.issueStore u n dst src0 src1).haltReached = s.haltReached := by
  simp [State.issueStore]
@[simp] theorem State.issueStore_mem (u : UnitId) (n : Nat) (dst src0 src1 : Reg) : (s.issueStore u n dst src0 src1).mem = s.mem := by
  simp [State.issueStore]
@[simp] theorem State.issueStore_busy (u : UnitId) (n : Nat) (dst src0 src1 : Reg) : (s.issueStore u n dst src0 src1).busy = s.busy := by
  simp [State.issueStore]
@[simp] theorem State.issueStore_instrTrace (u : UnitId) (n : Nat) (dst src0 src1 : Reg) : (s.issueStore u n dst src0 src1).instrTrace = s.instrTrace := by
  simp [State.issueStore]
@[simp] theorem State.issueStore_unitTrace (u : UnitId) (n : Nat) (dst src0 src1 : Reg) : (s.issueStore u n dst src0 src1).unitTrace = s.unitTrace := by
  simp [State.issueStore]
@[simp] theorem State.issueStore_station (u : UnitId) (n : Nat) (dst src0 src1 : Reg) : (s.issueStore u n dst src0 src1).station = s.station := by
  simp [State.issueStore]

/-! `State.endTick` and `State.fetchWord` -/

@[simp] theorem State.endTick_cfg : s.endTick.cfg = s.cfg := by simp [State.endTick]
@[simp] theorem State.endTick_regs : s.endTick.regs = s.regs := by simp [State.endTick]
@[simp] theorem State.endTick_pc : s.endTick.pc = s.pc := by simp [State.endTick]
@[simp] theorem State.endTick_cc : s.endTick.cc = s.cc + 1 := rfl
@[simp] theorem State.endTick_haltReached : s.endTick.haltReached = s.haltReached := by simp [State.endTick]
@[simp] theorem State.endTick_mem : s.endTick.mem = s.mem := by simp [State.endTick]
@[simp] theorem State.endTick_queue : s.endTick.queue = s.queue := by simp [State.endTick]
@[simp] theorem State.endTick_pools : s.endTick.pools = s.pools := by simp [State.endTick]
@[simp] theorem State.endTick_busy : s.endTick.busy = s.busy := by simp [State.endTick]
@[simp] theorem State.endTick_instrTrace : s.endTick.instrTrace = s.instrTrace := by simp [State.endTick]
@[simp] theorem State.endTick_unitTrace : s.endTick.unitTrace = s.emitUnitTrace.unitTrace := rfl
@[simp] theorem State.endTick_station : s.endTick.station = .fetch := rfl
@[simp] theorem State.fetchWord_cfg (w : Word) : (s.fetchWord w).cfg = s.cfg := by
  simp only [State.fetchWord]; split <;> rfl
@[simp] theorem State.fetchWord_regs (w : Word) : (s.fetchWord w).regs = s.regs := by
  simp only [State.fetchWord]; split <;> rfl
@[simp] theorem State.fetchWord_cc (w : Word) : (s.fetchWord w).cc = s.cc := by
  simp only [State.fetchWord]; split <;> rfl
@[simp] theorem State.fetchWord_haltReached (w : Word) : (s.fetchWord w).haltReached = s.haltReached := by
  simp only [State.fetchWord]; split <;> rfl
@[simp] theorem State.fetchWord_mem (w : Word) : (s.fetchWord w).mem = s.mem := by
  simp only [State.fetchWord]; split <;> rfl
@[simp] theorem State.fetchWord_busy (w : Word) : (s.fetchWord w).busy = s.busy := by
  simp only [State.fetchWord]; split <;> rfl
@[simp] theorem State.fetchWord_instrTrace (w : Word) : (s.fetchWord w).instrTrace = s.instrTrace := by
  simp only [State.fetchWord]; split <;> rfl
@[simp] theorem State.fetchWord_unitTrace (w : Word) : (s.fetchWord w).unitTrace = s.unitTrace := by
  simp only [State.fetchWord]; split <;> rfl
@[simp] theorem State.fetchWord_station (w : Word) : (s.fetchWord w).station = s.station := by
  simp only [State.fetchWord]; split <;> rfl

end Sys2Proof.Machine
end

