-- ==== Sys2Proof/Laws/Ops.lean ====
section
/-! SUPPORT. The accessors after the updates: registers, scoreboard entries, units, records; and what each shared
operation that branches can do. -/

namespace Sys2Proof

theorem PerKind.get_update {α : Type} (p : PerKind α) (k k' : Kind) (f : α → α) :
    (p.update k f).get k' = if k = k' then f (p.get k') else p.get k' := by
  cases k <;> cases k' <;> rfl

@[simp] theorem PerKind.get_update_same {α : Type} (p : PerKind α) (k : Kind) (f : α → α) :
    (p.update k f).get k = f (p.get k) := by
  cases k <;> rfl

@[simp] theorem PerKind.get_map {α β : Type} (p : PerKind α) (k : Kind) (f : α → β) :
    (p.map f).get k = f (p.get k) := by
  cases k <;> rfl

@[simp] theorem PerKind.get_const {α : Type} (a : α) (k : Kind) : (PerKind.const a).get k = a := by
  cases k <;> rfl

theorem PerKind.update_update {α : Type} (p : PerKind α) (k : Kind) (f g : α → α) :
    (p.update k f).update k g = p.update k (g ∘ f) := by
  cases k <;> rfl

@[simp] theorem Kind.mem_all (k : Kind) : k ∈ Kind.all := by cases k <;> decide

end Sys2Proof

namespace Sys2Proof.Machine

@[simp] theorem before_none (cc : Nat) : before none cc = false := rfl

@[simp] theorem before_some (t cc : Nat) : before (some t) cc = decide (t < cc) := rfl

theorem andThen_assoc (o : Result) (f g : State → Result) :
    andThen (andThen o f) g = andThen o fun s => andThen (f s) g := by cases o <;> rfl

/-- All that "go on" can answer with a next state. -/
theorem andThen_next {o : Result} {f : State → Result} {t : State} (h : andThen o f = .next t) :
    ∃ s, o = .next s ∧ f s = .next t := by
  cases o with
  | next s => exact ⟨s, rfl, h⟩
  | fault e => cases h
  | refused e => cases h

@[simp] theorem andThen_of_next (s : State) (f : State → Result) : andThen (.next s) f = f s := rfl

/-! Registers and scoreboard entries. -/

theorem State.reg_setReg (s : State) (r r' : Reg) (v : Word) :
    (s.setReg r v).reg r' = if r = r' then v else s.reg r' := by
  simp [State.reg, Vector.getElem_set, Fin.ext_iff]

theorem State.owner_setOwner (s : State) (r r' : Reg) (o : Option UnitId) :
    (s.setOwner r o).owner r' = if r = r' then o else s.owner r' := by
  simp [State.owner, Vector.getElem_set, Fin.ext_iff]

/-- Destination claim or WAW flag (R83), in its two cases. -/
theorem State.claimDestination_cases (s : State) (u : UnitId) (dst : Reg) :
    (∃ v, s.owner dst = some v ∧ s.claimDestination u dst = s.setWaw u true) ∨
      (s.owner dst = none ∧ s.claimDestination u dst = (s.setWaw u false).setOwner dst (some u)) := by
  unfold State.claimDestination
  cases h : s.owner dst with
  | none => exact .inr ⟨rfl, by simp⟩
  | some v => exact .inl ⟨v, rfl, by simp⟩

/-- WAW claim (R91), in its two cases. -/
theorem State.wawClaim_cases (s : State) (u : UnitId) (dst : Reg) :
    ((s.unit u).waw = true ∧ s.owner dst = none ∧ s.wawClaim u dst = s.setOwner dst (some u)) ∨
      (((s.unit u).waw = false ∨ s.owner dst ≠ none) ∧ s.wawClaim u dst = s) := by
  unfold State.wawClaim
  cases hw : (s.unit u).waw <;> cases ho : s.owner dst <;> simp

/-- Scoreboard clear (R112), in its two cases. -/
theorem State.releaseDestination_cases (s : State) (u : UnitId) (dst : Reg) :
    (s.owner dst = some u ∧ s.releaseDestination u dst = s.setOwner dst none) ∨
      (s.owner dst ≠ some u ∧ s.releaseDestination u dst = s) := by
  unfold State.releaseDestination
  split
  · next h => exact .inl ⟨h, rfl⟩
  · next h => exact .inr ⟨h, rfl⟩

/-! Units. -/

/-- A unit after one unit is changed: that unit if it exists, every other one unchanged. -/
theorem State.unit_updateUnit (s : State) (u v : UnitId) (f : FunctionalUnit → FunctionalUnit) :
    (s.updateUnit u f).unit v =
      if u = v ∧ v.idx < (s.pools.get v.kind).length then f (s.unit v) else s.unit v := by
  obtain ⟨k, j⟩ := u
  obtain ⟨k', j'⟩ := v
  simp only [State.unit, State.updateUnit_pools, PerKind.get_update]
  by_cases hk : k = k'
  · subst hk
    by_cases hj : j = j'
    · subst hj
      by_cases hl : j < (s.pools.get k).length
      · simp [hl]
      · simp [hl]
    · simp [hj]
  · simp [hk]

/-- A busy unit exists. -/
theorem State.idx_lt_of_busy {s : State} {u : UnitId} (h : (s.unit u).busy = true) :
    u.idx < (s.pools.get u.kind).length := by
  refine Classical.byContradiction fun hn => ?_
  simp [State.unit, List.getElem?_eq_none (Nat.le_of_not_lt hn), FunctionalUnit.idle] at h

/-- A unit tied to a slot exists. -/
theorem State.idx_lt_of_slot {s : State} {u : UnitId} {n : Nat} (h : (s.unit u).slot = some n) :
    u.idx < (s.pools.get u.kind).length := by
  refine Classical.byContradiction fun hn => ?_
  simp [State.unit, List.getElem?_eq_none (Nat.le_of_not_lt hn), FunctionalUnit.idle] at h

theorem State.unit_updateUnit_same {s : State} {u : UnitId} (f : FunctionalUnit → FunctionalUnit)
    (h : u.idx < (s.pools.get u.kind).length) : (s.updateUnit u f).unit u = f (s.unit u) := by
  rw [State.unit_updateUnit, if_pos ⟨rfl, h⟩]

theorem State.unit_updateUnit_ne (s : State) {u v : UnitId} (f : FunctionalUnit → FunctionalUnit) (h : u ≠ v) :
    (s.updateUnit u f).unit v = s.unit v := by
  rw [State.unit_updateUnit, if_neg fun h' => h h'.1]

/-- Two changes of one unit are one change. -/
theorem State.updateUnit_updateUnit (s : State) (u : UnitId) (f g : FunctionalUnit → FunctionalUnit) :
    (s.updateUnit u f).updateUnit u g = s.updateUnit u (g ∘ f) := by
  simp only [State.updateUnit, PerKind.update_update]
  congr 2
  funext us
  simp [List.modify_modify_eq]

@[simp] theorem State.unit_setReg (s : State) (r : Reg) (v : Word) (u : UnitId) : (s.setReg r v).unit u = s.unit u := rfl

@[simp] theorem State.unit_setOwner (s : State) (r : Reg) (o : Option UnitId) (u : UnitId) :
    (s.setOwner r o).unit u = s.unit u := rfl

@[simp] theorem State.unit_updateRecord (s : State) (n : Nat) (f : InstrRecord → InstrRecord) (u : UnitId) :
    (s.updateRecord n f).unit u = s.unit u := rfl

@[simp] theorem State.unit_at (s : State) (st : Station) (u : UnitId) : (s.at st).unit u = s.unit u := rfl

@[simp] theorem State.unit_updateInst (s : State) (v : UnitId) (f : InstrRecord → InstrRecord) (u : UnitId) :
    (s.updateInst v f).unit u = s.unit u := by
  simp [State.unit]

@[simp] theorem State.owner_updateUnit (s : State) (u : UnitId) (f : FunctionalUnit → FunctionalUnit) (r : Reg) :
    (s.updateUnit u f).owner r = s.owner r := rfl

@[simp] theorem State.owner_updateRecord (s : State) (n : Nat) (f : InstrRecord → InstrRecord) (r : Reg) :
    (s.updateRecord n f).owner r = s.owner r := rfl

@[simp] theorem State.owner_setReg (s : State) (r : Reg) (v : Word) (r' : Reg) :
    (s.setReg r v).owner r' = s.owner r' := rfl

@[simp] theorem State.owner_at (s : State) (st : Station) (r : Reg) : (s.at st).owner r = s.owner r := rfl

@[simp] theorem State.reg_updateUnit (s : State) (u : UnitId) (f : FunctionalUnit → FunctionalUnit) (r : Reg) :
    (s.updateUnit u f).reg r = s.reg r := rfl

@[simp] theorem State.reg_at (s : State) (st : Station) (r : Reg) : (s.at st).reg r = s.reg r := rfl

/-- A change of a unit's fields changes the length of no pool. -/
@[simp] theorem State.length_updateUnit (s : State) (u : UnitId) (f : FunctionalUnit → FunctionalUnit) (k : Kind) :
    ((s.updateUnit u f).pools.get k).length = (s.pools.get k).length := by
  rw [State.updateUnit_pools, PerKind.get_update]
  split <;> simp

/-- The units of a state are those whose index is inside their pool. -/
theorem State.mem_unitIds (s : State) (u : UnitId) : u ∈ s.unitIds ↔ u.idx < (s.pools.get u.kind).length := by
  obtain ⟨k, j⟩ := u
  simp only [State.unitIds, List.mem_flatMap, List.mem_map, List.mem_range, UnitId.mk.injEq]
  constructor
  · rintro ⟨k', -, j', hj, rfl, rfl⟩
    exact hj
  · exact fun h => ⟨k, Kind.mem_all k, j, h, rfl, rfl⟩

theorem State.mem_unitIds_of_busy {s : State} {u : UnitId} (h : (s.unit u).busy = true) : u ∈ s.unitIds :=
  (State.mem_unitIds s u).mpr (State.idx_lt_of_busy h)

/-! Queue records. -/

/-- Changing an entry that is there sets it. -/
theorem modify_eq_set_of_get {α : Type} {l : List α} {n : Nat} {a : α} (f : α → α) (h : l[n]? = some a) :
    l.modify n f = l.set n (f a) := by
  refine List.ext_getElem? fun m => ?_
  rw [List.getElem?_modify, List.getElem?_set]
  by_cases hm : n = m
  · subst hm
    obtain ⟨hl, ha⟩ := List.getElem?_eq_some_iff.mp h
    simp [hl, ha]
  · simp [hm]

/-- The record of slot `n` changed: the queue with that entry set. -/
theorem State.updateRecord_queue_of_get {s : State} {n : Nat} {r : InstrRecord} (f : InstrRecord → InstrRecord)
    (h : s.queue[n]? = some r) : (s.updateRecord n f).queue = s.queue.set n (f r) :=
  modify_eq_set_of_get f h

theorem State.inst_of_slot {s : State} {u : UnitId} {n : Nat} (h : (s.unit u).slot = some n) :
    s.inst u = s.queue[n]? := by
  simp [State.inst, h]

theorem State.inst_eq_some {s : State} {u : UnitId} {r : InstrRecord} (h : s.inst u = some r) :
    ∃ n, (s.unit u).slot = some n ∧ s.queue[n]? = some r := by
  unfold State.inst at h
  exact Option.bind_eq_some_iff.mp h

theorem State.updateInst_of_slot {s : State} {u : UnitId} {n : Nat} (f : InstrRecord → InstrRecord)
    (h : (s.unit u).slot = some n) : s.updateInst u f = s.updateRecord n f := by
  simp [State.updateInst, h]

/-- A change of a unit that keeps its slot keeps the record of every unit. -/
theorem State.inst_updateUnit_of_slot (s : State) (u v : UnitId) (f : FunctionalUnit → FunctionalUnit)
    (h : ∀ g, (f g).slot = g.slot) : (s.updateUnit u f).inst v = s.inst v := by
  simp only [State.inst, State.unit_updateUnit, State.updateUnit_queue]
  split
  · simp [h]
  · rfl

/-- The candidate unit of issue (R81): free, and no unit of the pool before it is. -/
theorem State.freeUnit_eq_some {s : State} {k : Kind} {u : UnitId} (h : s.freeUnit k = some u) :
    u.kind = k ∧ (s.unit u).busy = false ∧ u.idx < (s.pools.get k).length := by
  unfold State.freeUnit at h
  obtain ⟨j, hj, rfl⟩ := Option.map_eq_some_iff.mp h
  obtain ⟨hlt, hb, -⟩ := List.findIdx?_eq_some_iff_getElem.mp hj
  refine ⟨rfl, ?_, hlt⟩
  simpa [State.unit, List.getElem?_eq_getElem hlt] using hb

/-- Compaction seen from a unit (R73). -/
theorem State.unit_compact (s : State) (u : UnitId) : s.compact.unit u = (s.unit u).remap s.queue := by
  rcases u with ⟨k, i⟩
  have h (us : List FunctionalUnit) :
      ((us.map (FunctionalUnit.remap s.queue))[i]?).getD FunctionalUnit.idle =
        ((us[i]?).getD FunctionalUnit.idle).remap s.queue := by
    rw [List.getElem?_map]
    cases us[i]? <;> rfl
  cases k <;> exact h _

/-- Fetching a word (R71), in its two cases. -/
theorem State.fetchWord_cases (s : State) (w : Word) :
    (s.compact.queue.length < queueSlots ∧
        s.fetchWord w = { s.compact with queue := s.compact.queue ++ [newRecord w s.pc], pc := s.pc + 1 }) ∨
      (queueSlots ≤ s.compact.queue.length ∧ s.fetchWord w = s.compact) := by
  unfold State.fetchWord
  simp only
  split
  · next h => exact .inl ⟨h, rfl⟩
  · next h => exact .inr ⟨Nat.le_of_not_lt h, rfl⟩

end Sys2Proof.Machine
end

