-- ==== Sys2Proof/Laws/PerInstr.lean ====
section
/-! SUPPORT. Families of laws about the instruction as syntax, one lemma per constructor. -/

namespace Sys2Proof.Laws

/-- The pool of an instruction (R53): under legal opcode numbers, the opcode with which it is encoded has exactly the
instruction's kind, and HALT's opcode has none. -/
def OpcodeHasKind.Statement (i : Instr) : Prop :=
  ∀ m : OpcodeMap, m.legal = true →
    m.kindOf (match i with
      | .ld _ _ _ _ => m.ld
      | .st _ _ _ _ => m.st
      | .add _ _ _ _ => m.add
      | .sub _ _ _ _ => m.sub
      | .mul _ _ _ _ => m.mul
      | .div _ _ _ _ => m.div
      | .halt => m.halt) = i.kind

/-- Distinct opcode numbers, as the inequalities that `kindOf` tests. -/
theorem opcodes_distinct {m : OpcodeMap} (h : m.legal = true) :
    [m.ld, m.st, m.add, m.sub, m.mul, m.div, m.halt].Nodup := by
  unfold OpcodeMap.legal at h
  rw [Bool.and_eq_true] at h
  exact of_decide_eq_true h.1

/-- `kindOf` on the seven numbers of a legal map. -/
theorem kindOf_numbers {m : OpcodeMap} (h : m.legal = true) :
    m.kindOf m.ld = some .ld ∧ m.kindOf m.st = some .st ∧ m.kindOf m.add = some .add ∧ m.kindOf m.sub = some .sub ∧
      m.kindOf m.mul = some .mul ∧ m.kindOf m.div = some .div ∧ m.kindOf m.halt = none := by
  have hd := opcodes_distinct h
  simp only [List.nodup_cons, List.mem_cons, List.not_mem_nil, not_or] at hd
  obtain ⟨⟨h1, h2, h3, h4, h5, h6, -⟩, ⟨h7, h8, h9, h10, h11, -⟩, ⟨h12, h13, h14, h15, -⟩, ⟨h16, h17, h18, -⟩,
    ⟨h19, h20, -⟩, ⟨h21, -⟩, -⟩ := hd
  simp [OpcodeMap.kindOf, Ne.symm h1, Ne.symm h2, Ne.symm h3, Ne.symm h4, Ne.symm h5, Ne.symm h6, Ne.symm h7,
    Ne.symm h8, Ne.symm h9, Ne.symm h10, Ne.symm h11, Ne.symm h12, Ne.symm h13, Ne.symm h14, Ne.symm h15,
    Ne.symm h16, Ne.symm h17, Ne.symm h18, Ne.symm h19, Ne.symm h20, Ne.symm h21]

theorem OpcodeHasKind.ld (dst src0 src1 : Reg) (imm : Addr) : OpcodeHasKind.Statement (.ld dst src0 src1 imm) :=
  fun _ h => (kindOf_numbers h).1

theorem OpcodeHasKind.st (dst src0 src1 : Reg) (imm : Addr) : OpcodeHasKind.Statement (.st dst src0 src1 imm) :=
  fun _ h => (kindOf_numbers h).2.1

theorem OpcodeHasKind.add (dst src0 src1 : Reg) (imm : Addr) : OpcodeHasKind.Statement (.add dst src0 src1 imm) :=
  fun _ h => (kindOf_numbers h).2.2.1

theorem OpcodeHasKind.sub (dst src0 src1 : Reg) (imm : Addr) : OpcodeHasKind.Statement (.sub dst src0 src1 imm) :=
  fun _ h => (kindOf_numbers h).2.2.2.1

theorem OpcodeHasKind.mul (dst src0 src1 : Reg) (imm : Addr) : OpcodeHasKind.Statement (.mul dst src0 src1 imm) :=
  fun _ h => (kindOf_numbers h).2.2.2.2.1

theorem OpcodeHasKind.div (dst src0 src1 : Reg) (imm : Addr) : OpcodeHasKind.Statement (.div dst src0 src1 imm) :=
  fun _ h => (kindOf_numbers h).2.2.2.2.2.1

theorem OpcodeHasKind.halt : OpcodeHasKind.Statement .halt :=
  fun _ h => (kindOf_numbers h).2.2.2.2.2.2

end Sys2Proof.Laws
end

