-- ==== Sys2Proof/Laws/Stages.lean ====
section
/-! SUPPORT. For each stage of an instruction's path, and for each phase of a tick, one lemma that says everything it can
do when it answers a next state. -/

namespace Sys2Proof.Machine

/-- Compute once (R102): a staged result is kept; else the value is staged. -/
theorem State.stageResult_ok {s t : State} {u : UnitId} {value : Except Refusal Word}
    (h : s.stageResult u value = .ok t) :
    ((s.unit u).result.isSome ∧ t = s) ∨
      ((s.unit u).result = none ∧ ∃ v, value = .ok v ∧ t = s.updateUnit u fun f => { f with result := some v }) := by
  unfold State.stageResult at h
  cases hr : (s.unit u).result with
  | some w => rw [hr] at h; cases h; exact .inl ⟨rfl, rfl⟩
  | none =>
    rw [hr] at h
    cases value with
    | error e => cases h
    | ok v => cases h; exact .inr ⟨rfl, v, rfl, rfl⟩

/-- The read-operands visit (R90 to R92): it has read already; or it claims and reads; or it claims and waits. -/
theorem State.readStage_next {s t : State} {u : UnitId} {claim : State → State} {ok : State → Bool}
    (h : s.readStage u claim ok = .next t) :
    ∃ r, s.inst u = some r ∧
      ((r.read.isSome ∧ t = s) ∨
        (r.read = none ∧ before r.issue s.cc = true ∧ ok (claim s) = true ∧ t = (claim s).startReading u) ∨
        (r.read = none ∧ (before r.issue s.cc && ok (claim s)) = false ∧ t = claim s)) := by
  unfold State.readStage at h
  cases hi : s.inst u with
  | none => rw [hi] at h; cases h
  | some r =>
    refine ⟨r, rfl, ?_⟩
    simp only [hi] at h
    split at h
    · next hr => cases h; exact .inl ⟨hr, rfl⟩
    · next hr =>
      have hr : r.read = none := by simpa using hr
      split at h
      · next hc =>
        rw [Bool.and_eq_true] at hc
        cases h
        exact .inr (.inl ⟨hr, hc.1, hc.2, rfl⟩)
      · next hc => cases h; exact .inr (.inr ⟨hr, by simpa using hc, rfl⟩)

/-- The execute visit (R100): the guard fails and nothing happens; or the result is staged and the counter goes down, and
`finish` runs when it reaches zero. -/
theorem State.executeStage_next {s t : State} {u : UnitId} {value : Except Refusal Word} {finish : State → Result}
    (h : s.executeStage u value finish = .next t) :
    ∃ r, s.inst u = some r ∧
      (((before r.read s.cc && decide (0 < (s.unit u).remaining)) = false ∧ t = s) ∨
        (before r.read s.cc = true ∧ 0 < (s.unit u).remaining ∧ ∃ c, s.stageResult u value = .ok c ∧
          ((((c.countDown u).unit u).remaining = 0 ∧ finish (c.countDown u) = .next t) ∨
            (((c.countDown u).unit u).remaining ≠ 0 ∧ t = c.countDown u)))) := by
  unfold State.executeStage at h
  cases hi : s.inst u with
  | none => rw [hi] at h; cases h
  | some r =>
    refine ⟨r, rfl, ?_⟩
    simp only [hi] at h
    split at h
    · next hg =>
      rw [Bool.and_eq_true, decide_eq_true_eq] at hg
      refine .inr ⟨hg.1, hg.2, ?_⟩
      cases hs : s.stageResult u value with
      | error e => rw [hs] at h; cases h
      | ok c =>
        rw [hs] at h
        refine ⟨c, rfl, ?_⟩
        simp only at h
        split at h
        · next hz => exact .inl ⟨hz, h⟩
        · next hz => cases h; exact .inr ⟨hz, rfl⟩
    · next hg => cases h; exact .inl ⟨by simpa using hg, rfl⟩

/-- A store whose counter has reached zero (R103, R104): it is bumped; or its staged result goes to memory. -/
theorem State.finishStore_next {s t : State} {u : UnitId} {imm : Addr} (h : s.finishStore u imm = .next t) :
    (((s.storeBump u imm).unit u).remaining ≠ 0 ∧ t = s.storeBump u imm) ∨
      (((s.storeBump u imm).unit u).remaining = 0 ∧ ∃ v m, ((s.storeBump u imm).unit u).result = some v ∧
        (s.storeBump u imm).memWrite (effectiveAddress imm) v = .ok m ∧ t = m.stampExec u) := by
  unfold State.finishStore at h
  simp only at h
  split at h
  · next hz =>
    refine .inr ⟨hz, ?_⟩
    cases hv : ((s.storeBump u imm).unit u).result with
    | none => rw [hv] at h; cases h
    | some v =>
      simp only [hv] at h
      cases hm : (s.storeBump u imm).memWrite (effectiveAddress imm) v with
      | error e => rw [hm] at h; cases h
      | ok m => rw [hm] at h; cases h; exact ⟨v, m, rfl, hm, rfl⟩
  · next hz => cases h; exact .inl ⟨hz, rfl⟩

/-- The write-back visit (R110): the condition holds and `commit` runs; or nothing happens. -/
theorem State.writeBackStage_next {s t : State} {u : UnitId} {commit : State → Result}
    (h : s.writeBackStage u commit = .next t) :
    ∃ r, s.inst u = some r ∧
      ((before r.exec s.cc = true ∧ (s.unit u).remaining = 0 ∧ commit s = .next t) ∨
        ((before r.exec s.cc && decide ((s.unit u).remaining = 0)) = false ∧ t = s)) := by
  unfold State.writeBackStage at h
  cases hi : s.inst u with
  | none => rw [hi] at h; cases h
  | some r =>
    refine ⟨r, rfl, ?_⟩
    simp only [hi] at h
    split at h
    · next hg =>
      rw [Bool.and_eq_true, decide_eq_true_eq] at hg
      exact .inl ⟨hg.1, hg.2, h⟩
    · next hg => cases h; exact .inr ⟨by simpa using hg, rfl⟩

/-- Commit to a register (R111, R112): the staged result, and nothing without one. -/
theorem State.commitRegister_next {s t : State} {u : UnitId} {dst : Reg} (h : s.commitRegister u dst = .next t) :
    ∃ v, (s.unit u).result = some v ∧
      t = (((s.setReg dst v).stampWrite u).releaseDestination u dst).resetUnit u := by
  unfold State.commitRegister at h
  cases hv : (s.unit u).result with
  | none => rw [hv] at h; cases h
  | some v => rw [hv] at h; cases h; exact ⟨v, rfl, rfl⟩

/-! The phases of a tick. -/

/-- The fetch phase (R70): nothing after halt; else the instruction at the cursor is served, or a word that is none is
queued. -/
theorem State.fetchPhase_next {s t : State} (h : s.fetchPhase = .next t) :
    (s.haltReached = true ∧ t = s) ∨
      (s.haltReached = false ∧ s.pc < s.cfg.memWords ∧
        ((∃ i, decodeWith s.cfg.opcodes (s.mem.read s.pc) = .ok i ∧ exec i (s.at .fetch) = .next t) ∨
          (∃ e, decodeWith s.cfg.opcodes (s.mem.read s.pc) = .error e ∧ t = s.fetchWord (s.mem.read s.pc)))) := by
  unfold State.fetchPhase at h
  split at h
  · next hh => cases h; exact .inl ⟨hh, rfl⟩
  · next hh =>
    split at h
    · cases h
    · next hp =>
      refine .inr ⟨by simpa using hh, Nat.lt_of_not_le hp, ?_⟩
      cases hd : decodeWith s.cfg.opcodes (s.mem.read s.pc) with
      | ok i => simp only [hd] at h; exact .inl ⟨i, rfl, h⟩
      | error e => simp only [hd] at h; cases h; exact .inr ⟨e, rfl, rfl⟩

/-- What a record issues with (R80, R81): its kind has a free unit, and the instruction is read off its fields. -/
theorem State.issueChoice_eq_some {s : State} {r : InstrRecord} {u : UnitId} {i : Instr}
    (h : s.issueChoice r = some (u, i)) :
    s.cfg.opcodes.kindOf r.opcode = some u.kind ∧ s.freeUnit u.kind = some u ∧
      i = .ofKind u.kind r.dst r.src0 r.src1 r.imm := by
  unfold State.issueChoice at h
  cases hk : s.cfg.opcodes.kindOf r.opcode with
  | none => rw [hk] at h; cases h
  | some k =>
    simp only [hk] at h
    cases hf : s.freeUnit k with
    | none => rw [hf] at h; cases h
    | some v =>
      rw [hf] at h
      cases h
      have hv : u.kind = k := (State.freeUnit_eq_some hf).1
      subst hv
      exact ⟨rfl, hf, rfl⟩

/-- When a record cannot issue (R80, R81): no kind, or no free unit of its kind. -/
theorem State.issueChoice_eq_none {s : State} {r : InstrRecord} :
    s.issueChoice r = none ↔ ∀ k ∈ s.cfg.opcodes.kindOf r.opcode, s.freeUnit k = none := by
  unfold State.issueChoice
  cases s.cfg.opcodes.kindOf r.opcode with
  | none => simp
  | some k => cases hf : s.freeUnit k <;> simp [hf]

/-- The scan of the issue phase (R80). It issues nothing if every record is issued, or, under `in_order`, the first unissued
one cannot issue, or, under `first_fit`, none of the unissued ones can. Else it issues one unissued record `r` at its slot,
all the records before which are issued or, under `first_fit`, cannot issue. -/
theorem State.issueScan_next {s t : State} {n : Nat} {rs : List InstrRecord} (h : s.issueScan n rs = .next t) :
    (t = s ∧
        ((∀ r ∈ rs, r.issue.isSome) ∨
          (s.cfg.policy = .inOrder ∧ ∃ j r, rs[j]? = some r ∧ r.issue = none ∧ s.issueChoice r = none ∧
            ∀ x ∈ rs.take j, x.issue.isSome) ∨
          (s.cfg.policy = .firstFit ∧ ∀ r ∈ rs, r.issue = none → s.issueChoice r = none))) ∨
      ∃ j r u i, rs[j]? = some r ∧ r.issue = none ∧ s.issueChoice r = some (u, i) ∧
        exec i (s.at (.issue u (n + j))) = .next t ∧
        ∀ x ∈ rs.take j, x.issue.isSome ∨ (s.cfg.policy = .firstFit ∧ s.issueChoice x = none) := by
  induction rs generalizing n with
  | nil => cases h; exact .inl ⟨rfl, .inl (by simp)⟩
  | cons r rest ih =>
    have later (j : Nat) (u : UnitId) (i : Instr) : s.at (.issue u (n + 1 + j)) = s.at (.issue u (n + (j + 1))) := by
      rw [Nat.add_comm j 1, ← Nat.add_assoc]
    unfold State.issueScan at h
    split at h
    · next hi =>
      rcases ih h with ⟨rfl, hs | ⟨hp, j, x, hx, hn, hc, hb⟩ | ⟨hp, hs⟩⟩ | ⟨j, x, u, i, hx, hn, hc, he, hb⟩
      · exact .inl ⟨rfl, .inl (List.forall_mem_cons.mpr ⟨hi, hs⟩)⟩
      · exact .inl ⟨rfl, .inr (.inl ⟨hp, j + 1, x, hx, hn, hc, List.forall_mem_cons.mpr ⟨hi, hb⟩⟩)⟩
      · exact .inl ⟨rfl, .inr (.inr ⟨hp, List.forall_mem_cons.mpr ⟨fun hn => by simp [hn] at hi, hs⟩⟩)⟩
      · exact .inr ⟨j + 1, x, u, i, hx, hn, hc, later j u i ▸ he, List.forall_mem_cons.mpr ⟨.inl hi, hb⟩⟩
    · next hi =>
      have hnone : r.issue = none := by simpa using hi
      cases hc : s.issueChoice r with
      | some p =>
        obtain ⟨u, i⟩ := p
        simp only [hc] at h
        exact .inr ⟨0, r, u, i, rfl, hnone, hc, h, by simp⟩
      | none =>
        simp only [hc] at h
        cases hp : s.cfg.policy with
        | inOrder =>
          rw [hp] at h
          cases h
          exact .inl ⟨rfl, .inr (.inl ⟨rfl, 0, r, rfl, hnone, hc, by simp⟩)⟩
        | firstFit =>
          rw [hp] at h
          rcases ih h with ⟨rfl, hs | ⟨ho, -⟩ | ⟨-, hs⟩⟩ | ⟨j, x, u, i, hx, hn, hc', he, hb⟩
          · exact .inl ⟨rfl, .inr (.inr ⟨rfl, List.forall_mem_cons.mpr
              ⟨fun _ => hc, fun x hx hn => by simpa [hn] using hs x hx⟩⟩)⟩
          · rw [hp] at ho
            cases ho
          · exact .inl ⟨rfl, .inr (.inr ⟨rfl, List.forall_mem_cons.mpr ⟨fun _ => hc, hs⟩⟩)⟩
          · refine .inr ⟨j + 1, x, u, i, hx, hn, hc', later j u i ▸ he, List.forall_mem_cons.mpr ⟨.inr ⟨rfl, hc⟩, ?_⟩⟩
            intro y hy
            exact hp ▸ hb y hy

/-- A visit (R90, R100, R110, R115): an idle unit is passed over; a busy one is served as its instruction says. -/
theorem State.serve_next {st : UnitId → Station} {u : UnitId} {s t : State} (h : s.serve st u = .next t) :
    ((s.unit u).busy = false ∧ t = s) ∨
      ((s.unit u).busy = true ∧ ∃ r i, s.inst u = some r ∧ r.instr s.cfg.opcodes = some i ∧
        exec i (s.at (st u)) = .next t) := by
  unfold State.serve at h
  split at h
  · next hb =>
    refine .inr ⟨hb, ?_⟩
    cases hi : (s.inst u).bind (InstrRecord.instr s.cfg.opcodes) with
    | none => rw [hi] at h; cases h
    | some i =>
      rw [hi] at h
      obtain ⟨r, hr, hri⟩ := Option.bind_eq_some_iff.mp hi
      exact ⟨r, i, hr, hri, h⟩
  · next hb => cases h; exact .inl ⟨by simpa using hb, rfl⟩

/-- A property that every visit keeps holds after all of them. -/
theorem State.serveAll_keeps {P : State → Prop} {st : UnitId → Station}
    (keep : ∀ u s t, s.serve st u = .next t → P s → P t) :
    ∀ (us : List UnitId) (s t : State), State.serveAll st us s = .next t → P s → P t
  | [], s, t, h, hp => by cases h; exact hp
  | u :: rest, s, t, h, hp => by
    obtain ⟨m, hm, hr⟩ := andThen_next h
    exact State.serveAll_keeps keep rest m t hr (keep u s m hm hp)

/-- The visits of a list of units as a fold over it (R62). -/
theorem State.foldl_serve (st : UnitId → Station) (us : List UnitId) (o : Result) :
    us.foldl (fun o u => andThen o (State.serve st u)) o = andThen o (State.serveAll st us) := by
  induction us generalizing o with
  | nil => cases o <;> rfl
  | cons u rest ih => rw [List.foldl_cons, ih, andThen_assoc]; rfl

/-- The states a tick passes through (R60). -/
theorem State.tick_next {s t : State} (h : s.tick = .next t) :
    ∃ f i r e w b, s.fetchPhase = .next f ∧ f.issuePhase = .next i ∧
      State.unitPhase .readOperands i = .next r ∧ State.unitPhase .execute r = .next e ∧
      State.unitPhase .writeBack e = .next w ∧ State.unitPhase .clearBusy w = .next b ∧ t = b.endTick := by
  obtain ⟨f, hf, h⟩ := andThen_next h
  obtain ⟨b, hb, h⟩ := andThen_next h
  obtain ⟨w, hw, hb⟩ := andThen_next hb
  obtain ⟨e, he, hw⟩ := andThen_next hw
  obtain ⟨r, hr, he⟩ := andThen_next he
  obtain ⟨i, hi, hr⟩ := andThen_next hr
  cases h
  exact ⟨f, i, r, e, w, b, hf, hi, hr, he, hw, hb, rfl⟩

/-- A step that answers a next state (R29): the configuration is legal, and the state holds or a tick is performed. -/
theorem step_next {s t : State} (h : step s = .next t) :
    s.cfg.latenciesLegal = true ∧ s.cfg.opcodes.legal = true ∧
      ((s.done = true ∧ t = s) ∨ (s.done = false ∧ s.tick = .next t)) := by
  unfold step at h
  split at h
  · cases h
  · next hl =>
    split at h
    · cases h
    · next ho =>
      refine ⟨by simpa using hl, by simpa using ho, ?_⟩
      split at h
      · next hd => cases h; exact .inl ⟨hd, rfl⟩
      · next hd => exact .inr ⟨by simpa using hd, h⟩

end Sys2Proof.Machine
end

