-- ==== Sys2Proof/Tests/Slice0.lean ====
section
/-! SUPPORT. Tests: well-formedness smoke tests, decoding of words written out from the encoding, single steps against the
spec's vectors, and for every statement with hypotheses a concrete state that meets them. Expected values come from the
rule or vector named in each comment. -/

namespace Sys2Proof.Tests

open Sys2Proof Sys2Proof.Machine

/-! ## Well-formedness: an ill-formed term for each check -/

theorem test_default_configuration_is_legal : Params.default.legal = true := by decide

/-- R178: a latency of 1. -/
theorem test_latency_one_is_illegal :
    ({ Params.default with delay := { Params.default.delay with add := 1 } } : Params).latenciesLegal = false := by decide

/-- R178: a latency of 0. -/
theorem test_latency_zero_is_illegal :
    ({ Params.default with delay := { Params.default.delay with st := 0 } } : Params).latenciesLegal = false := by decide

/-- R8: two equal opcode numbers. -/
theorem test_equal_opcodes_are_illegal : ({ OpcodeMap.default with mul := 2 } : OpcodeMap).legal = false := by decide

/-- R135: a halt word whose high byte is not the halt opcode. -/
theorem test_halt_word_of_another_opcode_is_illegal :
    ({ OpcodeMap.default with haltWord := 0x02000000 } : OpcodeMap).legal = false := by decide

/-- R44: an address beyond a reduced memory, for LD and for ST. -/
theorem test_address_beyond_memory_is_ill_formed :
    Instr.wellFormed { Params.default with memWords := 100 } (.ld 1 0 0 100) = false ∧
      Instr.wellFormed { Params.default with memWords := 100 } (.st 0 0 1 4095) = false ∧
      Instr.wellFormed Params.default (.st 0 0 1 4095) = true := by decide

/-- Memory: an entry equal to the unlisted value, and two entries out of order. -/
theorem test_memory_out_of_form :
    Memory.wf [(3, 0)] = false ∧ Memory.wf [(5, 1), (3, 1)] = false ∧ Memory.wf [(3, 1), (5, 1)] = true := by decide

/-! ## Decoding: opcode 8 bits, dst 4, src0 4, src1 4, imm 12 (R50, R53) -/

theorem test_decode_ld : decode (0b00000000_0001_0010_0011_000001100100 : BitVec 32) = .ok (.ld 1 2 3 100) := by decide
theorem test_decode_st : decode (0b00000001_0100_0101_0010_000001100101 : BitVec 32) = .ok (.st 4 5 2 101) := by decide
theorem test_decode_add : decode (0b00000010_0001_0010_0011_000000000000 : BitVec 32) = .ok (.add 1 2 3 0) := by decide
theorem test_decode_sub : decode (0b00000011_0111_1000_1001_000000000001 : BitVec 32) = .ok (.sub 7 8 9 1) := by decide
theorem test_decode_mul : decode (0b00000100_1111_0000_1110_100000000000 : BitVec 32) = .ok (.mul 15 0 14 2048) := by decide
theorem test_decode_div : decode (0b00000101_1010_1011_1100_110111101111 : BitVec 32) = .ok (.div 10 11 12 0xDEF) := by decide
theorem test_decode_halt : decode (0b00000110_0000_0000_0000_000000000000 : BitVec 32) = .ok .halt := by decide
/-- V1, R136: the halt opcode with another bit set. -/
theorem test_decode_halt_with_operands : decode 0x06000001 = .error (.haltWithOperands 0x06000001) := by decide
/-- V1, R137: an opcode with no kind. -/
theorem test_decode_undefined : decode 0xFFFFFFFF = .error (.undefinedOpcode 0xFF) := by decide
/-- V1: the encoder's words. -/
theorem test_encode :
    encode (.add 1 2 3 0) = 0x02123000 ∧ encode (.ld 1 0 0 10) = 0x0010000A ∧ encode (.st 0 0 2 101) = 0x01002065 ∧
      encode (.div 10 11 12 0xDEF) = 0x05ABCDEF ∧ encode (.sub 7 8 9 0) = 0x03789000 ∧
      encode (.mul 1 2 3 0) = 0x04123000 ∧ encode .halt = 0x06000000 := by decide

/-! ## Small states -/

/-- Reset with the record `r` in slot 0 and unit `u` (index 0 of its pool) in the state `f`, at cycle `cc`, standing at
`st`. -/
def oneInFlight (cc : Nat) (r : InstrRecord) (u : Kind) (f : FunctionalUnit) (st : Station) : State :=
  { State.reset with
    cc := cc, pc := 1, queue := [r], pools := State.reset.pools.update u fun _ => [f], station := st }

/-- A record of `w` at program index 0, served by unit 0, with the given timestamps. -/
def rec0 (w : Word) (issue read exec : Option Nat) : InstrRecord :=
  { newRecord w 0 with issue := issue, read := read, exec := exec, unit := issue.map fun _ => 0 }

/-- A busy unit tied to slot 0, both sources ready. -/
def unit0 (dst src0 src1 : Reg) (remaining : Nat) (result : Option Word) : FunctionalUnit :=
  { busy := true, remaining := remaining, dst := some dst, src0 := some src0, src1 := some src1
    ready0 := true, ready1 := true, q0 := none, q1 := none, result := result, slot := some 0, waw := false }

/-- What `o` answers, if it is a next state. -/
def next? (o : Result) : Option State :=
  match o with
  | .next s => some s
  | .fault _ => none
  | .refused _ => none

/-- `o` is the stop `e`. -/
def faults (o : Result) (e : Fault) : Bool :=
  match o with
  | .fault x => decide (x = e)
  | .next _ => false
  | .refused _ => false

/-- `o` is the refusal `e`. -/
def refuses (o : Result) (e : Refusal) : Bool :=
  match o with
  | .refused x => decide (x = e)
  | .next _ => false
  | .fault _ => false

def add0 : UnitId := ⟨.add, 0⟩
def ld0 : UnitId := ⟨.ld, 0⟩
def st0 : UnitId := ⟨.st, 0⟩

/-- X1 after tick 1: `ADD F1,F2,F3` issued to ADD0, which owns F1. -/
def addIssued : State :=
  (oneInFlight 2 (rec0 0x02123000 (some 1) none none) .add (unit0 1 2 3 0 none) .fetch).setOwner 1 (some add0)

/-- X1 before its execute phase of tick 3. -/
def addExecuting : State :=
  oneInFlight 3 (rec0 0x02123000 (some 1) (some 2) none) .add (unit0 1 2 3 1 none) (.execute add0)

/-- X1 before its write-back phase of tick 4. -/
def addCompleted : State :=
  (oneInFlight 4 (rec0 0x02123000 (some 1) (some 2) (some 3)) .add (unit0 1 2 3 0 (some 0x40A00000))
    (.writeBack add0)).setOwner 1 (some add0)

/-- `ST F2,[101]` about to complete, in tick 3. -/
def storeExecuting : State :=
  oneInFlight 3 (rec0 0x01002065 (some 1) (some 2) none) .st (unit0 0 0 2 1 none) (.execute st0)

/-- V5 in tick 4: `ST F2,[20]` about to complete while the earlier `LD F1,[20]` has not. -/
def storeBehindLoad : State :=
  { State.reset with
    cc := 4, pc := 2, station := .execute st0
    queue := [rec0 0x00100014 (some 1) (some 2) none,
      { rec0 0x01002014 (some 2) (some 3) none with pidx := 1 }]
    pools := (State.reset.pools.update .ld fun _ => [unit0 1 0 0 3 (some 0x41180000)]).update .st
      fun _ => [{ unit0 0 0 2 1 none with slot := some 1 }] }

/-! ## One step, against the vectors -/

/-- X1, tick 1: fetched into slot 0 and issued to ADD0, which claims F1. -/
theorem test_add_first_step :
    ((next? (step (State.reset.withFetchWord 32 0x02123000))).map fun s =>
      (s.queue, s.pc, s.cc, s.owner 1, (s.unit add0).busy)) =
      some ([rec0 0x02123000 (some 1) none none], 1, 2, some add0, true) := by decide

/-- X1, tick 3: 2.0 + 3.0 = 5.0 is staged, the counter reaches 0 and `exec` = 3. -/
theorem test_add_executes :
    ((next? (exec (.add 1 2 3 0) addExecuting)).map fun s =>
      ((s.unit add0).result, (s.unit add0).remaining, s.queue.map (·.exec))) =
      some (some 0x40A00000, 0, [some 3]) := by decide

/-- X1, tick 4: F1 = 5.0, `write` = 4, the entry of F1 cleared, ADD0 reset. -/
theorem test_add_writes_back :
    ((next? (exec (.add 1 2 3 0) addCompleted)).map fun s =>
      (s.reg 1, s.queue.map (·.write), s.owner 1, s.unit add0)) =
      some (0x40A00000, [some 4], none, FunctionalUnit.idle) := by decide

/-- R123: 8.0 - 9.0 = -1.0. -/
theorem test_sub_executes :
    ((next? (exec (.sub 7 8 9 0)
      (oneInFlight 3 (rec0 0x03789000 (some 1) (some 2) none) .sub (unit0 7 8 9 1 none) (.execute ⟨.sub, 0⟩)))).map
      fun s => (s.unit ⟨.sub, 0⟩).result) = some (some 0xBF800000) := by decide

/-- R124: 2.0 × 3.0 = 6.0. -/
theorem test_mul_executes :
    ((next? (exec (.mul 1 2 3 0)
      (oneInFlight 3 (rec0 0x04123000 (some 1) (some 2) none) .mul (unit0 1 2 3 1 none) (.execute ⟨.mul, 0⟩)))).map
      fun s => (s.unit ⟨.mul, 0⟩).result) = some (some 0x40C00000) := by decide

/-- R125: 8.0 ÷ 2.0 = 4.0. -/
theorem test_div_executes :
    ((next? (exec (.div 1 8 2 0)
      (oneInFlight 3 (rec0 0x05182000 (some 1) (some 2) none) .div (unit0 1 8 2 1 none) (.execute ⟨.div, 0⟩)))).map
      fun s => (s.unit ⟨.div, 0⟩).result) = some (some 0x40800000) := by decide

/-- X2, tick 3: the word at address 10. -/
theorem test_ld_executes :
    ((next? (exec (.ld 1 0 0 10)
      { oneInFlight 3 (rec0 0x0010000A (some 1) (some 2) none) .ld (unit0 1 0 0 1 none) (.execute ld0) with
        mem := [(10, 0x40490FDB)] })).map fun s => (s.unit ld0).result) = some (some 0x40490FDB) := by decide

/-- R131: `ST F2,[101]` writes 2.0 in tick 3, `exec` = 3. -/
theorem test_st_completes :
    ((next? (exec (.st 0 0 2 101) storeExecuting)).map fun s => (s.mem, s.queue.map (·.exec))) =
      some ([(101, 0x40000000)], [some 3]) := by decide

/-- V5, tick 4: the store is bumped back to 1 and memory is unchanged. -/
theorem test_st_is_held_back :
    ((next? (exec (.st 0 0 2 20) storeBehindLoad)).map fun s => (s.mem, (s.unit st0).remaining, (s.unit st0).result)) =
      some ([], 1, some 0x40000000) := by decide

/-- V16(c): the halt word at address 0: one tick, `cc` = 2, `pc` = 0, `done`. -/
theorem test_halt_first_step :
    ((next? (step (State.reset.withFetchWord 32 0x06000000))).map fun s =>
      (s.haltReached, s.cc, s.pc, s.queue, s.done)) = some (true, 2, 0, [], true) := by decide

/-- V14, tick 1: an undefined word is queued and not issued. -/
theorem test_undefined_word_is_queued :
    ((next? (step (State.reset.withFetchWord 32 0x07000000))).map fun s => (s.queue.map (·.issue), s.pc)) =
      some ([none], 1) := by decide

/-- V16(d): a latency of 1 is refused. -/
theorem test_illegal_latency_is_refused :
    refuses (step (State.resetOf { Params.default with delay := { Params.default.delay with add := 1 } }))
      .illegalLatency = true := by decide

/-- R14: the cursor at the end of memory. -/
theorem test_fetch_past_end : faults (step { State.reset with pc := 4096 }) .fetchPastEnd = true := by decide

/-! ## Arithmetic values (V2) -/

/-- V2: results that are exact. -/
theorem test_exact_results :
    fadd .binary32 0x3FC00000 0xBFC00000 = 0x00000000 ∧ fsub .binary32 0x40A00000 0x40A00000 = 0x00000000 ∧
      fmul .binary32 0xC0800000 0x3F000000 = 0xC0000000 ∧ fdiv .binary32 0x3F800000 0x40800000 = 0x3E800000 ∧
      fdiv .binary32 0x00000000 0x40A00000 = 0x00000000 := by decide

/-- V2: results that round to nearest even, and division by zero. -/
theorem test_rounded_results :
    fdiv .binary32 0x40000000 0x40400000 = 0x3F2AAAAB ∧ fdiv .binary32 0x3F800000 0x40400000 = 0x3EAAAAAB ∧
      fadd .binary32 0x3DCCCCCD 0x3E4CCCCD = 0x3E99999A ∧ fadd .binary32 0x4B800000 0x3F800000 = 0x4B800000 ∧
      fdiv .binary32 0x40000000 0x00000000 = 0x7F800000 := by decide


/-! ## Hypotheses: for each statement, a state and operands that meet all of them -/

/-- A computation that answers a next state has one. -/
theorem exists_next (o : Result) (h : (next? o).isSome = true) : ∃ t, o = .next t := by
  cases o with
  | next t => exact ⟨t, rfl⟩
  | fault _ => exact Bool.noConfusion h
  | refused _ => exact Bool.noConfusion h

theorem addIssued_inv : addIssued.Inv :=
  ⟨by decide, by decide, by decide, by decide, by decide, by decide, by decide, by decide⟩

theorem addIssued_timely : addIssued.Timely := ⟨by decide, by decide, by decide⟩

/-- V5 after tick 5: `LD F1,[20]` written and still in slot 0, `ST F2,[20]` completed in slot 1. -/
def loadThenStore : State :=
  { State.reset with
    cc := 6, pc := 2, mem := [(20, 0x40000000)]
    queue := [{ rec0 0x00100014 (some 1) (some 2) (some 4) with write := some 5 },
      { rec0 0x01002014 (some 2) (some 3) (some 5) with pidx := 1 }]
    pools := State.reset.pools.update .st
      fun _ => [{ unit0 0 0 2 0 (some 0x40000000) with slot := some 1 }]
    cfg := { Params.default with delay := { Params.default.delay with ld := 3 } }
    instrTrace := [{ word := 0x00100014, pidx := 0, kind := some .ld, unit := some 0, issue := some 1
                     read := some 2, exec := some 4, write := some 5 }] }

theorem loadThenStore_inv : loadThenStore.Inv :=
  ⟨by decide, by decide, by decide, by decide, by decide, by decide, by decide, by decide⟩

theorem witness_DecodeInvertsEncode : OpcodeMap.default.legal = true := by decide

theorem witness_EncodeInvertsDecode :
    decodeWith .default 0x05ABCDEF = .ok (.div 10 11 12 0xDEF) ∧ decodeWith .default 0x06000000 = .ok .halt := by decide

theorem witness_InvariantsHoldAtReset :
    Memory.wf [(0, 0x02123000), (4095, 0x06000000)] = true ∧
      ∀ c ∈ ([(0, 0x02123000), (4095, 0x06000000)] : Memory), c.1 < Params.default.memWords := by decide

theorem witness_IllegalConfiguration_latency :
    (State.resetOf { Params.default with delay := { Params.default.delay with ld := 1 } }).cfg.delay.get .ld < 2 := by decide

/-- The second clause at its boundary: every latency 2, and two equal opcode numbers. -/
theorem witness_IllegalConfiguration_opcodes :
    let s := State.resetOf { Params.default with opcodes := { OpcodeMap.default with div := 4 } }
    (∀ k, 2 ≤ s.cfg.delay.get k) ∧
      ¬[s.cfg.opcodes.ld, s.cfg.opcodes.st, s.cfg.opcodes.add, s.cfg.opcodes.sub, s.cfg.opcodes.mul,
        s.cfg.opcodes.div, s.cfg.opcodes.halt].Nodup :=
  ⟨fun k => by cases k <;> decide, by decide⟩

/-- `ADD F1,F2,F3` written, the halt word met: `done`. -/
def addDone : State :=
  { State.reset with
    cc := 5, pc := 1, haltReached := true
    queue := [{ rec0 0x02123000 (some 1) (some 2) (some 3) with write := some 4 }]
    instrTrace := [{ word := 0x02123000, pidx := 0, kind := some .add, unit := some 0, issue := some 1
                     read := some 2, exec := some 3, write := some 4 }] }

theorem witness_DoneStateHolds : addDone.cfg.legal = true ∧ addDone.done = true := by decide

theorem witness_DoneTraceHasEveryInstruction : addDone.Inv ∧ addDone.TraceOk ∧ addDone.done = true :=
  ⟨⟨by decide, by decide, by decide, by decide, by decide, by decide, by decide, by decide⟩,
    ⟨by decide, by decide, by decide, by decide⟩, by decide⟩

theorem witness_FetchPastEndIsStuck :
    let s := { State.reset with pc := 4096 }
    s.cfg.legal = true ∧ s.haltReached = false ∧ s.cfg.memWords ≤ s.pc := by decide

/-- The last word of memory. -/
theorem witness_StepServesTheFetchedInstruction :
    let s := { State.reset with pc := 4095, mem := [(4095, 0x02123000)] }
    s.cfg.legal = true ∧ s.haltReached = false ∧ s.pc < s.cfg.memWords ∧
      decodeWith s.cfg.opcodes (s.mem.read s.pc) = .ok (.add 1 2 3 0) := by decide

/-- The clause for a run that drains after the halt word. -/
theorem witness_StepServesTheFetchedInstruction_halted :
    let s := { addIssued with haltReached := true }
    s.cfg.legal = true ∧ s.haltReached = true ∧ s.done = false := by decide

theorem witness_UnitsAreServed_idle : (addIssued.unit ld0).busy = false := by decide

theorem witness_UnitsAreServed_busy :
    (addIssued.unit add0).busy = true ∧ addIssued.Serving add0 0 (rec0 0x02123000 (some 1) none none) ∧
      addIssued.cfg.opcodes.kindOf (rec0 0x02123000 (some 1) none none).opcode = some .add := by decide

/-- Fifteen records of an undefined word wait in the queue. -/
def waiting (n : Nat) : List InstrRecord := (List.range n).map (newRecord 0x07000000)

theorem witness_UndefinedWordIsQueued :
    let s := { State.reset with pc := 15, queue := waiting 15, mem := [(15, 0x06000001)] }
    s.cfg.legal = true ∧ s.haltReached = false ∧ s.pc < s.cfg.memWords ∧
      decodeWith s.cfg.opcodes (s.mem.read s.pc) = .error (.haltWithOperands 0x06000001) ∧
      (s.queue.filter fun r => r.write.isNone).length < 16 := by decide

theorem witness_ConfigurationIsConstant : ∃ t, step addIssued = .next t := exists_next _ (by decide)

theorem witness_CycleCounterCountsTicks_step : addIssued.done = false ∧ ∃ t, step addIssued = .next t :=
  ⟨by decide, exists_next _ (by decide)⟩

theorem witness_CycleCounterCountsTicks_phases :
    (∃ t, exec (.add 1 2 3 0) addExecuting = .next t) ∧ (∃ t, addIssued.fetchPhase = .next t) ∧
      (∃ t, addIssued.issuePhase = .next t) ∧ ∃ t, State.unitPhase .readOperands addIssued = .next t :=
  ⟨exists_next _ (by decide), exists_next _ (by decide), exists_next _ (by decide), exists_next _ (by decide)⟩

/-! Fetch and HALT. -/

theorem witness_FetchedInstructionEntersTheQueue :
    let s := { State.reset with pc := 15, queue := waiting 15 }
    s.station = .fetch ∧ (s.queue.filter fun r => r.write.isNone).length < 16 := by decide

/-- The cursor stays at a full queue, and moves past a written record; the word fetched then is 0. -/
theorem witness_OneWordEntersPerTick :
    ((next? (step { State.reset with pc := 16, queue := waiting 16 })).map fun t => t.pc) = some 16 ∧
      ((next? (step loadThenStore)).map fun t => (t.pc, t.queue.map fun r => (r.word, r.pidx))) =
        some (3, [(0x01002014, 1), (0, 2)]) := by decide

theorem witness_FullQueueTurnsFetchAway :
    let s := { State.reset with pc := 16, queue := waiting 16 }
    s.station = .fetch ∧ 16 ≤ (s.queue.filter fun r => r.write.isNone).length := by decide

/-- A busy unit behind a written record, and one that is not busy. -/
theorem witness_CompactionKeepsBackReferences :
    (loadThenStore.unit st0).busy = true ∧
      loadThenStore.Serving st0 1 { rec0 0x01002014 (some 2) (some 3) (some 5) with pidx := 1 } ∧
      (loadThenStore.unit ld0).busy = false ∧ loadThenStore.compact.queue.length = 1 := by decide

theorem witness_NothingIsFetched_flag :
    ({ addIssued with haltReached := true } : State).haltReached = true ∧
      ∃ t, step { addIssued with haltReached := true } = .next t := ⟨rfl, exists_next _ (by decide)⟩

theorem witness_NothingIsFetched_word :
    ({ addIssued with mem := [(1, 0x06000000)] } : State).mem.read 1 = OpcodeMap.default.haltWord ∧
      ∃ t, step { addIssued with mem := [(1, 0x06000000)] } = .next t := ⟨by decide, exists_next _ (by decide)⟩

/-! Issue. -/

/-- `ADD F1,F2,F3` in slot 0, being issued to ADD0. -/
def addIssuing : State :=
  { State.reset with pc := 1, queue := [rec0 0x02123000 none none none], station := .issue add0 0 }

/-- A free destination, and one that another unit owns. -/
theorem witness_IssueRecordsHazardsAndClaims :
    addIssuing.station = .issue add0 0 ∧ add0.idx < (addIssuing.pools.get add0.kind).length ∧
      addIssuing.queue[0]? = some (rec0 0x02123000 none none none) ∧ addIssuing.owner 1 = none ∧
      (addIssuing.setOwner 1 (some ld0)).owner 1 = some ld0 := by decide

/-- The same for a store. -/
theorem witness_IssueRecordsHazards_store :
    let s := { addIssuing with queue := [rec0 0x01002065 none none none], station := .issue st0 0 }
    s.station = .issue st0 0 ∧ st0.idx < (s.pools.get st0.kind).length ∧
      s.queue[0]? = some (rec0 0x01002065 none none none) := by decide

/-- An undefined word, then an ADD. Under `in_order` the first cannot issue and nothing issues; under `first_fit` the ADD does. -/
theorem witness_IssuePhaseIssuesAtMostOne :
    let s := { addIssuing with queue := waiting 1 ++ [{ rec0 0x02123000 none none none with pidx := 1 }] }
    s.CannotIssue (newRecord 0x07000000 0) ∧
      ((next? s.issuePhase).map fun t => t.queue.map (·.issue)) = some [none, none] ∧
      ((next? ({ s with cfg := { Params.default with policy := .firstFit } } : State).issuePhase).map fun t =>
        t.queue.map (·.issue)) = some [none, some 1] ∧
      ((next? addIssuing.issuePhase).map fun t => t.queue.map (·.issue)) = some [some 1] := by decide

/-! Read operands. -/

/-- `ADD F1,F2,F3` issued in tick 1, at its read-operands visit in tick `cc`; `waw` its flag, `o` the owner of F1. -/
def addReading (cc : Nat) (ready0 ready1 waw : Bool) (o : Option UnitId) : State :=
  (oneInFlight cc (rec0 0x02123000 (some 1) none none) .add
    { unit0 1 2 3 0 none with ready0 := ready0, ready1 := ready1, waw := waw } (.readOperands add0)).setOwner 1 o

/-- A freed entry is claimed with neither source ready. -/
theorem witness_FlaggedUnitClaimsAFreedEntry :
    let s := addReading 2 false false true none
    s.station = .readOperands add0 ∧ s.Serving add0 0 (rec0 0x02123000 (some 1) none none) ∧
      (rec0 0x02123000 (some 1) none none).read = none ∧ (s.unit add0).waw = true ∧ s.owner 1 = none := by decide

/-- Not flagged; flagged with the entry just free; flagged and owner. -/
theorem witness_WriterReadsWhenReady :
    ∀ s ∈ [addReading 2 true true false (some add0), addReading 2 true true true none,
        addReading 2 true true true (some add0)],
      s.ReadCycle add0 0 (rec0 0x02123000 (some 1) none none) ∧ (s.unit add0).ready0 = true ∧
        (s.unit add0).ready1 = true ∧ ((s.unit add0).waw = false ∨ s.owner 1 = none ∨ s.owner 1 = some add0) := by
  decide

/-- The first source is not ready. -/
theorem witness_StoreReadsOnItsSecondSource :
    let s := oneInFlight 2 (rec0 0x01002065 (some 1) none none) .st
      { unit0 0 0 2 0 none with ready0 := false } (.readOperands st0)
    s.ReadCycle st0 0 (rec0 0x01002065 (some 1) none none) ∧ (s.unit st0).ready1 = true := by decide

/-- Issued in this very tick; second source; first source; a flagged destination owned by LD0. -/
theorem witness_UnreadyInstructionWaits :
    ∀ s ∈ [addReading 1 true true false (some add0), addReading 2 true false false (some add0),
        addReading 2 false true false (some add0), addReading 2 true true true (some ld0)],
      s.station = .readOperands add0 ∧ s.Serving add0 0 (rec0 0x02123000 (some 1) none none) := by decide

theorem witness_UnreadyInstructionWaits_conditions :
    before (some 1) (addReading 1 true true false (some add0)).cc = false ∧
      ((addReading 2 true false false (some add0)).unit add0).ready1 = false ∧
      ((addReading 2 false true false (some add0)).unit add0).ready0 = false ∧
      ((addReading 2 true true true (some ld0)).unit add0).waw = true ∧
      (addReading 2 true true true (some ld0)).owner 1 = some ld0 ∧ ld0 ≠ add0 := by decide

/-- Already read; read in this tick; counter zero; completed in this tick; counter not zero. -/
theorem witness_VisitsBeforeTheirTime :
    let read := rec0 0x02123000 (some 1) (some 2) none
    let completed := rec0 0x02123000 (some 1) (some 2) (some 3)
    let s1 := { addExecuting with station := .readOperands add0 }
    let s2 := { addExecuting with cc := 2 }
    let s3 := { addCompleted with station := .execute add0 }
    let s4 := { addCompleted with cc := 3 }
    let s5 := { addExecuting with station := .writeBack add0 }
    (s1.Serving add0 0 read ∧ s1.station = .readOperands add0 ∧ read.read.isSome = true) ∧
      (s2.Serving add0 0 read ∧ s2.station = .execute add0 ∧ before read.read s2.cc = false) ∧
      (s3.Serving add0 0 completed ∧ s3.station = .execute add0 ∧ (s3.unit add0).remaining = 0) ∧
      (s4.Serving add0 0 completed ∧ s4.station = .writeBack add0 ∧ before completed.exec s4.cc = false) ∧
      s5.Serving add0 0 read ∧ s5.station = .writeBack add0 ∧ (s5.unit add0).remaining ≠ 0 := by decide

/-- ADD0 stays busy, both sources ready. -/
theorem witness_ReadinessFlagsOnlyRise :
    (addIssued.unit add0).busy = true ∧ (addIssued.unit add0).ready0 = true ∧ (addIssued.unit add0).ready1 = true ∧
      ((next? (step addIssued)).map fun t => (t.unit add0).busy) = some true := by decide

/-! Execute. -/

/-- The last word, in a memory that lists another one. -/
theorem witness_MemoryPrimitivesMoveOneWord :
    loadThenStore.mem.wf = true ∧ 4095 < loadThenStore.cfg.memWords ∧ loadThenStore.mem.read 20 ≠ 0 := by decide

/-- Also a first execute cycle for LD, SUB, MUL and DIV: none of the hypotheses depends on the instruction. -/
theorem witness_ArithmeticStagesItsFunction :
    addExecuting.ExecuteCycle add0 0 (rec0 0x02123000 (some 1) (some 2) none) ∧
      (addExecuting.unit add0).result = none := by decide

theorem witness_LoadStagesTheMemoryWord :
    let s := oneInFlight 3 (rec0 0x00100FFF (some 1) (some 2) none) .ld (unit0 1 0 0 1 none) (.execute ld0)
    s.ExecuteCycle ld0 0 (rec0 0x00100FFF (some 1) (some 2) none) ∧ (s.unit ld0).result = none ∧
      effectiveAddress 0xFFF < s.cfg.memWords := by decide

theorem witness_StagedResultIsKept :
    let s := oneInFlight 4 (rec0 0x02123000 (some 1) (some 2) none) .add (unit0 1 2 3 2 (some 7)) (.execute add0)
    s.ExecuteCycle add0 0 (rec0 0x02123000 (some 1) (some 2) none) ∧ (s.unit add0).result = some 7 := by decide

theorem witness_StoreStagesItsRegister :
    let s := oneInFlight 3 (rec0 0x01002065 (some 1) (some 2) none) .st (unit0 0 0 2 2 none) (.execute st0)
    s.ExecuteCycle st0 0 (rec0 0x01002065 (some 1) (some 2) none) ∧ (s.unit st0).remaining ≠ 1 := by decide

theorem witness_StoreCompletesToMemory :
    storeExecuting.mem.wf = true ∧ storeExecuting.ExecuteCycle st0 0 (rec0 0x01002065 (some 1) (some 2) none) ∧
      (storeExecuting.unit st0).remaining = 1 ∧ storeExecuting.collidingLoads 101 (some 1) = 0 ∧ st0.kind = .st ∧
      effectiveAddress 101 < storeExecuting.cfg.memWords := by decide

theorem witness_EarlierLoadHoldsAStoreBack :
    storeBehindLoad.ExecuteCycle st0 1 { rec0 0x01002014 (some 2) (some 3) none with pidx := 1 } ∧
      (storeBehindLoad.unit st0).remaining = 1 ∧ storeBehindLoad.collidingLoads 20 (some 2) = 1 ∧ st0.kind = .st := by
  decide

/-- `MEM_WORDS` = 101, so that 101 is the first address beyond: a load and a store. -/
theorem witness_AccessBeyondMemory_load :
    let s := { oneInFlight 3 (rec0 0x00100065 (some 1) (some 2) none) .ld (unit0 1 0 0 1 none) (.execute ld0) with
      cfg := { Params.default with memWords := 101 } }
    s.ExecuteCycle ld0 0 (rec0 0x00100065 (some 1) (some 2) none) ∧ s.cfg.memWords ≤ effectiveAddress 101 ∧
      (s.unit ld0).result = none := by decide

theorem witness_AccessBeyondMemory_store :
    let s := { storeExecuting with cfg := { Params.default with memWords := 101 } }
    s.ExecuteCycle st0 0 (rec0 0x01002065 (some 1) (some 2) none) ∧ s.cfg.memWords ≤ effectiveAddress 101 ∧
      (s.unit st0).remaining = 1 ∧ s.collidingLoads 101 (some 1) = 0 ∧ st0.kind = .st := by decide

/-! Write-back, clear-busy and frames. -/

theorem witness_WriteBackCommitsToTheRegister :
    addCompleted.WriteBackCycle add0 0 (rec0 0x02123000 (some 1) (some 2) (some 3)) ∧
      (addCompleted.unit add0).result = some 0x40A00000 ∧ addCompleted.owner 1 = some add0 := by decide

theorem witness_StoreWriteBackWritesNoRegister :
    let s := oneInFlight 4 (rec0 0x01002065 (some 1) (some 2) (some 3)) .st (unit0 0 0 2 0 (some 0x40000000)) (.writeBack st0)
    s.WriteBackCycle st0 0 (rec0 0x01002065 (some 1) (some 2) (some 3)) := by decide

/-- One source pending, the other not. -/
theorem witness_ClearBusyRaisesReadiness :
    let s := { addReading 2 false false false (some add0) with station := .clearBusy add0 }.setOwner 3 (some ld0)
    s.station = .clearBusy add0 ∧ add0.idx < (s.pools.get add0.kind).length ∧ s.owner 2 = none ∧
      s.owner 3 = some ld0 := by decide

/-- At write-back, where a register changes. -/
theorem witness_RegisterWriterFrame :
    (∃ t, exec (.ofKind .add 1 2 3 0) addCompleted = .next t) ∧
      ∃ t, exec (.ofKind .ld 1 2 3 0) addExecuting = .next t :=
  ⟨exists_next _ (by decide), exists_next _ (by decide)⟩

/-- At execute, where memory changes, and elsewhere. -/
theorem witness_StoreFrame :
    (∃ t, exec (.st 0 0 2 101) storeExecuting = .next t) ∧ ∃ t, exec (.st 0 0 2 101) State.reset = .next t :=
  ⟨exists_next _ (by decide), exists_next _ (by decide)⟩

/-! Invariants. -/

theorem witness_TimestampsNeverChange :
    addIssued.Inv ∧ (∃ t, step addIssued = .next t) ∧ rec0 0x02123000 (some 1) none none ∈ addIssued.queue :=
  ⟨addIssued_inv, exists_next _ (by decide), by decide⟩

theorem witness_StepKeepsTheInvariant : addIssued.Inv ∧ ∃ t, step addIssued = .next t :=
  ⟨addIssued_inv, exists_next _ (by decide)⟩

theorem witness_StepKeepsTheInvariant_load_and_store : loadThenStore.Inv ∧ ∃ t, step loadThenStore = .next t :=
  ⟨loadThenStore_inv, exists_next _ (by decide)⟩

theorem witness_StepKeepsTheTimingRelations :
    (addIssued.Inv ∧ addIssued.Timely ∧ ∃ t, step addIssued = .next t) ∧ loadThenStore.Timely :=
  ⟨⟨addIssued_inv, addIssued_timely, exists_next _ (by decide)⟩, ⟨by decide, by decide, by decide⟩⟩

theorem witness_StepKeepsTheTraceComplete :
    loadThenStore.Inv ∧ loadThenStore.TraceOk ∧ ∃ t, step loadThenStore = .next t :=
  ⟨loadThenStore_inv, ⟨by decide, by decide, by decide, by decide⟩, exists_next _ (by decide)⟩

theorem witness_StepKeepsMemoryCanonical : loadThenStore.MemoryOk ∧ ∃ t, step loadThenStore = .next t :=
  ⟨by decide, exists_next _ (by decide)⟩

theorem witness_StepKeepsLoadsBeforeStores :
    loadThenStore.Inv ∧ loadThenStore.LoadsBeforeStores ∧ ∃ t, step loadThenStore = .next t :=
  ⟨loadThenStore_inv, by decide, exists_next _ (by decide)⟩

theorem witness_StepKeepsIssueOrder :
    loadThenStore.Inv ∧ loadThenStore.cfg.policy = .inOrder ∧ loadThenStore.IssuedInOrder ∧
      ∃ t, step loadThenStore = .next t := ⟨loadThenStore_inv, by decide, by decide, exists_next _ (by decide)⟩

/-- The first outcome. -/
theorem witness_SafeStepsComplete :
    addIssued.Inv ∧ addIssued.cfg.legal = true ∧ 4096 ≤ addIssued.cfg.memWords ∧ ∃ t, step addIssued = .next t :=
  ⟨addIssued_inv, by decide, by decide, exists_next _ (by decide)⟩

/-- The second outcome. -/
theorem witness_SafeStepsComplete_past_end :
    let s := { addIssued with pc := 4096 }
    s.Inv ∧ s.cfg.legal = true ∧ 4096 ≤ s.cfg.memWords ∧ faults (step s) .fetchPastEnd = true :=
  ⟨⟨by decide, by decide, by decide, by decide, by decide, by decide, by decide, by decide⟩,
    by decide, by decide, by decide⟩

theorem witness_UndefinedRecordStaysForEver :
    let s := { State.reset with pc := 1, queue := waiting 1 }
    s.Inv ∧ (∃ t, step s = .next t) ∧ newRecord 0x07000000 0 ∈ s.queue ∧ (newRecord 0x07000000 0).issue = none ∧
      s.cfg.opcodes.kindOf (newRecord 0x07000000 0).opcode = none :=
  ⟨⟨by decide, by decide, by decide, by decide, by decide, by decide, by decide, by decide⟩,
    exists_next _ (by decide), by decide, by decide, by decide⟩

/-- The trace unit busy at the end of the tick, and not. -/
theorem witness_UnitTraceSamplesBusyTicks :
    addIssued.done = false ∧ ((next? (step addIssued)).map fun t => t.unitTrace.length) = some 1 ∧
      loadThenStore.done = false ∧ ((next? (step loadThenStore)).map fun t => t.unitTrace.length) = some 0 := by decide

/-! Arithmetic. -/

theorem value_of_unpack {w : Word} {n : Bool} {m : Nat} {e : Int} (h : Binary32.unpack w = .finite n m e) :
    Binary32.value w = some ((if n then -1 else 1) * (m : ℚ) * (2 : ℚ) ^ e) := by rw [Binary32.value, h]

/-- 1.0 and 4.0: the sum 5.0, the difference -3.0, the product 4.0 and the quotient 0.25 are representable. -/
theorem witness_ExactResultsAreReturned :
    Binary32.value 0x3F800000 = some 1 ∧ Binary32.value 0x40800000 = some 4 ∧
      Binary32.value 0x40A00000 = some (1 + 4) ∧ Binary32.value 0xC0400000 = some (1 - 4) ∧
      Binary32.value 0x40800000 = some (1 * 4) ∧ Binary32.value 0x3E800000 = some (1 / 4) := by
  refine ⟨?_, ?_, ?_, ?_, ?_, ?_⟩
  · exact (value_of_unpack (n := false) (m := 2 ^ 23) (e := -23) (by decide)).trans (by norm_num)
  · exact (value_of_unpack (n := false) (m := 2 ^ 23) (e := -21) (by decide)).trans (by norm_num)
  · exact (value_of_unpack (n := false) (m := 5 * 2 ^ 21) (e := -21) (by decide)).trans (by norm_num)
  · exact (value_of_unpack (n := true) (m := 3 * 2 ^ 22) (e := -22) (by decide)).trans (by norm_num)
  · exact (value_of_unpack (n := false) (m := 2 ^ 23) (e := -21) (by decide)).trans (by norm_num)
  · exact (value_of_unpack (n := false) (m := 2 ^ 23) (e := -25) (by decide)).trans (by norm_num)

/-- 16777216.0 and 1.0, whose sum lies midway between two representable values: the one with last bit 0 is taken (V2). -/
theorem witness_RoundingIsToNearestEven :
    Binary32.value 0x4B800000 = some 16777216 ∧ Binary32.value 0x3F800000 = some 1 ∧
      Binary32.value 0x4B800001 = some 16777218 ∧ fadd .binary32 0x4B800000 0x3F800000 = 0x4B800000 := by
  refine ⟨?_, ?_, ?_, by decide⟩
  · exact (value_of_unpack (n := false) (m := 2 ^ 23) (e := 1) (by decide)).trans (by norm_num)
  · exact (value_of_unpack (n := false) (m := 2 ^ 23) (e := -23) (by decide)).trans (by norm_num)
  · exact (value_of_unpack (n := false) (m := 2 ^ 23 + 1) (e := 1) (by decide)).trans (by norm_num)

/-- The bound of overflow: the largest finite value plus 2 ^ 103 is an infinity, and plus the value below it is not. -/
theorem witness_RoundingIsToNearestEven_overflow :
    Binary32.value 0x7F7FFFFF = some ((2 ^ 24 - 1) * 2 ^ 104) ∧ Binary32.value 0x73000000 = some (2 ^ 103) ∧
      fadd .binary32 0x7F7FFFFF 0x73000000 = 0x7F800000 ∧ fadd .binary32 0x7F7FFFFF 0x72FFFFFF = 0x7F7FFFFF ∧
      fsub .binary32 0xFF7FFFFF 0x73000000 = 0xFF800000 := by
  refine ⟨?_, ?_, by decide, by decide, by decide⟩
  · exact (value_of_unpack (n := false) (m := 2 ^ 24 - 1) (e := 104) (by decide)).trans (by norm_num)
  · exact (value_of_unpack (n := false) (m := 2 ^ 23) (e := 80) (by decide)).trans (by norm_num)

/-- 2.0, both zeros, and a NaN. -/
theorem witness_SpecialResultsDoNotTrap :
    Binary32.value 0x40000000 = some 2 ∧ Binary32.value 0 = some 0 ∧ Binary32.value 0x80000000 = some 0 ∧
      Binary32.isNaN 0x7FC00000 = true := by
  refine ⟨?_, ?_, ?_, by decide⟩
  · exact (value_of_unpack (n := false) (m := 2 ^ 23) (e := -22) (by decide)).trans (by norm_num)
  · exact (value_of_unpack (n := false) (m := 0) (e := -149) (by decide)).trans (by norm_num)
  · exact (value_of_unpack (n := true) (m := 0) (e := -149) (by decide)).trans (by norm_num)

theorem witness_NaNResultIsAnyNaN : Binary32.isNaN 0xFF800001 = true := by decide

end Sys2Proof.Tests
end

section
/-! The registers at reset (10_state.md R13). -/

namespace Sys2Proof.Machine

@[simp] theorem State.resetOf_regs (p : Params) : (State.resetOf p).regs = resetRegs := rfl

@[simp] theorem State.resetOf_reg (p : Params) (r : Reg) : (State.resetOf p).reg r = resetRegs[r] := rfl

/-- A pattern whose integer significand is `n` shifted up by as many places as its exponent shifts down is the number `n`. -/
theorem Binary32.value_eq_natCast_of_unpack {w : Word} {n k : Nat}
    (h : Binary32.unpack w = .finite false (n * 2 ^ k) (-k)) : Binary32.value w = some (n : ℚ) := by
  have unshift : ((n * 2 ^ k : Nat) : ℚ) * (2 : ℚ) ^ (-k : Int) = n := by
    rw [Nat.cast_mul, Nat.cast_pow, Nat.cast_ofNat, zpow_neg, zpow_natCast,
      mul_inv_cancel_right₀ (pow_ne_zero k two_ne_zero)]
  simp only [Binary32.value, h, Bool.false_eq_true, if_false, one_mul, unshift]

/-- The fraction places binary32 keeps for the integer `n` below `2 ^ 24` (G3): zero has the exponent of the subnormals, and
any other number has the 24 bits of its significand less those of its integer part. -/
def Binary32.fractionPlaces (n : Nat) : Nat := if n = 0 then 149 else 23 - n.log2

/-- The significand and exponent of each reset pattern, so that the value of register i needs no case per register. -/
theorem unpack_resetRegs : ∀ r : Reg, Binary32.unpack resetRegs[r] =
    .finite false (r.val * 2 ^ Binary32.fractionPlaces r.val) (-(Binary32.fractionPlaces r.val : Int)) := by
  decide

/-- Settles O6: the patterns are the listed ones by definition, and each unpacks to its index scaled by a power of two. -/
theorem registersResetToTheirIndex : Obligations.RegistersResetToTheirIndex := by
  intro p
  constructor
  · intro r
    rw [State.resetOf_reg]
    exact Binary32.value_eq_natCast_of_unpack (unpack_resetRegs r)
  · rw [State.resetOf_regs]
    rfl

end Sys2Proof.Machine
end

section
/-! The memory primitives on an address inside memory (20_memory.md R41). -/

namespace Sys2Proof

/-- Which word a write changes, for one law over all addresses. -/
theorem Memory.read_write (m : Memory) (a : Nat) (v : Word) (h : m.wf = true) (x : Nat) :
    (m.write a v).read x = if x = a then v else m.read x := by
  split
  · next hx => rw [hx, Memory.read_write_same m a v h]
  · next hx => exact Memory.read_write_ne m v hx

end Sys2Proof

namespace Sys2Proof.Machine

variable {s : State} {a : Nat}

theorem State.memRead_of_lt (h : a < s.cfg.memWords) : s.memRead a = .ok (s.mem.read a) := if_pos h

theorem State.memWrite_of_lt (v : Word) (h : a < s.cfg.memWords) :
    s.memWrite a v = .ok { s with mem := s.mem.write a v } := if_pos h

/-- Settles O32: inside memory neither primitive is refused, and the memory written is `Memory.write` of the old one. -/
theorem memoryPrimitivesMoveOneWord : Obligations.MemoryPrimitivesMoveOneWord := by
  intro s a v hwf ha
  refine ⟨State.memRead_of_lt ha, s.mem.write a v, State.memWrite_of_lt v ha, ?canonical, ?words⟩
  case canonical => exact Memory.write_wf s.mem a v hwf
  case words => exact Memory.read_write s.mem a v hwf

end Sys2Proof.Machine
end

section
/-! The codec of five fields (30_encoding.md R50, R57): the fields tile the word, so decoding and encoding are inverse. -/

namespace Sys2Proof

/-- A `++` of bit vectors as a sum, for arithmetic on words put together from fields. -/
theorem toNat_append_eq_add {m n : Nat} (x : BitVec m) (y : BitVec n) :
    (x ++ y).toNat = x.toNat * 2 ^ n + y.toNat := by
  rw [BitVec.toNat_append, ← Nat.shiftLeft_add_eq_or_of_lt y.isLt, Nat.shiftLeft_eq]

/-- R50: the five fields lie side by side, the opcode at the top, and fill the 32 bits. -/
theorem encodeFields_eq_append (f : Fields) :
    encodeFields f = f.opcode ++ (BitVec.ofFin f.dst : BitVec 4) ++ (BitVec.ofFin f.src0 : BitVec 4)
      ++ (BitVec.ofFin f.src1 : BitVec 4) ++ f.imm := by
  rw [← BitVec.setWidth_eq (_ ++ f.imm)]
  simp only [encodeFields, BitVec.setWidth_append_eq_shiftLeft_setWidth_or, BitVec.shiftLeft_or_distrib,
    ← BitVec.shiftLeft_add]

theorem encodeFields_toNat (f : Fields) :
    (encodeFields f).toNat =
      f.opcode.toNat * 2 ^ 24 + f.dst.val * 2 ^ 20 + f.src0.val * 2 ^ 16 + f.src1.val * 2 ^ 12 + f.imm.toNat := by
  rw [encodeFields_eq_append]
  simp only [toNat_append_eq_add, BitVec.toNat_ofFin]
  omega

theorem regField_val (w : Word) (lo : Nat) : (regField w lo).val = w.toNat / 2 ^ lo % 2 ^ 4 := by
  rw [← Nat.shiftRight_eq_div_pow]
  exact BitVec.extractLsb'_toNat lo 4 w

theorem decodeFields_eq_iff (w : Word) (f : Fields) :
    decodeFields w = f ↔
      w.toNat / 2 ^ 24 % 2 ^ 8 = f.opcode.toNat ∧ w.toNat / 2 ^ 20 % 2 ^ 4 = f.dst.val ∧
        w.toNat / 2 ^ 16 % 2 ^ 4 = f.src0.val ∧ w.toNat / 2 ^ 12 % 2 ^ 4 = f.src1.val ∧
          w.toNat % 2 ^ 12 = f.imm.toNat := by
  obtain ⟨opcode, dst, src0, src1, imm⟩ := f
  simp [decodeFields, ← BitVec.toNat_inj, Fin.ext_iff, regField_val, Nat.shiftRight_eq_div_pow]

/-- Dividing the sum of `encodeFields_toNat` at a field's place leaves that field, since the lower ones fit below it. -/
@[simp] theorem decodeFields_encodeFields (f : Fields) : decodeFields (encodeFields f) = f := by
  have hopcode := f.opcode.isLt
  have himm := f.imm.isLt
  rw [decodeFields_eq_iff, encodeFields_toNat]
  omega

/-- R50: the field ranges that decoding cuts out of a word join up to the whole word again. -/
@[simp] theorem encodeFields_decodeFields (w : Word) : encodeFields (decodeFields w) = w := by
  calc encodeFields (decodeFields w)
      = w.extractLsb' 24 8 ++ w.extractLsb' 20 4 ++ w.extractLsb' 16 4 ++ w.extractLsb' 12 4 ++ w.extractLsb' 0 12 :=
        encodeFields_eq_append (decodeFields w)
    _ = w.extractLsb' 0 32 := by
        simp only [BitVec.extractLsb'_append_extractLsb'_eq_extractLsb']
    _ = w := BitVec.extractLsb'_eq_self

/-- Settles O1: as a number the encoding is the sum of its fields, and the fields of a word tile it. -/
theorem codecIsLossless : Obligations.CodecIsLossless :=
  ⟨fun f => ⟨encodeFields_toNat f, decodeFields_encodeFields f⟩, encodeFields_decodeFields⟩

end Sys2Proof
end

section
/-! The cycle counter (40_pipeline_controller.md R60, R61): no visit and no phase of a tick touches it. The lemmas about
stages and phases speak of any observation of the state, so that they serve for its other constant parts as well. -/

namespace Sys2Proof

/-- Every instruction is HALT or an executing one, of some kind. -/
theorem Instr.eq_halt_or_ofKind (i : Instr) : i = .halt ∨ ∃ k d a b imm, i = .ofKind k d a b imm := by
  cases i with
  | halt => exact .inl rfl
  | ld d a b imm => exact .inr ⟨.ld, d, a, b, imm, rfl⟩
  | st d a b imm => exact .inr ⟨.st, d, a, b, imm, rfl⟩
  | add d a b imm => exact .inr ⟨.add, d, a, b, imm, rfl⟩
  | sub d a b imm => exact .inr ⟨.sub, d, a, b, imm, rfl⟩
  | mul d a b imm => exact .inr ⟨.mul, d, a, b, imm, rfl⟩
  | div d a b imm => exact .inr ⟨.div, d, a, b, imm, rfl⟩

end Sys2Proof

namespace Sys2Proof.Machine

/-- Wherever `f` answers a next state, that state looks like the old one under `obs`. -/
def Keeps {α : Type} (obs : State → α) (f : State → Result) : Prop := ∀ s t, f s = .next t → obs t = obs s

/-! The stages, for an observation that their parts keep. -/

section Stages

variable {α : Type} {obs : State → α} {s t : State} {u : UnitId}

theorem State.readStage_keeps {claim : State → State} {ok : State → Bool} (hclaim : ∀ s, obs (claim s) = obs s)
    (hread : ∀ s : State, obs (s.startReading u) = obs s) (h : s.readStage u claim ok = .next t) : obs t = obs s := by
  obtain ⟨r, -, ⟨-, rfl⟩ | ⟨-, -, -, rfl⟩ | ⟨-, -, rfl⟩⟩ := State.readStage_next h
  · rfl
  · rw [hread, hclaim]
  · exact hclaim s

theorem State.stageResult_keeps {value : Except Refusal Word}
    (hunit : ∀ (s : State) f, obs (s.updateUnit u f) = obs s) (h : s.stageResult u value = .ok t) : obs t = obs s := by
  obtain ⟨-, rfl⟩ | ⟨-, v, -, rfl⟩ := State.stageResult_ok h
  · rfl
  · exact hunit s _

theorem State.executeStage_keeps {value : Except Refusal Word} {finish : State → Result}
    (hunit : ∀ (s : State) f, obs (s.updateUnit u f) = obs s) (hfinish : Keeps obs finish)
    (h : s.executeStage u value finish = .next t) : obs t = obs s := by
  obtain ⟨r, -, ⟨-, rfl⟩ | ⟨-, -, c, hc, hcases⟩⟩ := State.executeStage_next h
  · rfl
  · have hcount : obs (c.countDown u) = obs s := (hunit c _).trans (State.stageResult_keeps hunit hc)
    obtain ⟨-, hf⟩ | ⟨-, rfl⟩ := hcases
    · exact (hfinish _ _ hf).trans hcount
    · exact hcount

theorem State.writeBackStage_keeps {commit : State → Result} (hcommit : Keeps obs commit)
    (h : s.writeBackStage u commit = .next t) : obs t = obs s := by
  obtain ⟨r, -, ⟨-, -, hc⟩ | ⟨-, rfl⟩⟩ := State.writeBackStage_next h
  · exact hcommit s t hc
  · rfl

end Stages

/-! The phases, for an observation that every instruction keeps and that does not see the place in the tick. -/

section Phases

variable {α : Type} {obs : State → α}

theorem State.fetchPhase_keeps (hat : ∀ (s : State) st, obs (s.at st) = obs s) (hexec : ∀ i, Keeps obs (exec i))
    (hfetch : ∀ (s : State) w, obs (s.fetchWord w) = obs s) : Keeps obs State.fetchPhase := by
  intro s t h
  obtain ⟨-, rfl⟩ | ⟨-, -, ⟨i, -, hi⟩ | ⟨e, -, rfl⟩⟩ := State.fetchPhase_next h
  · rfl
  · exact (hexec i _ t hi).trans (hat s _)
  · exact hfetch s _

theorem State.issuePhase_keeps (hat : ∀ (s : State) st, obs (s.at st) = obs s) (hexec : ∀ i, Keeps obs (exec i)) :
    Keeps obs State.issuePhase := by
  intro s t h
  obtain ⟨rfl, -⟩ | ⟨j, r, u, i, -, -, -, hi, -⟩ := State.issueScan_next h
  · rfl
  · exact (hexec i _ t hi).trans (hat s _)

theorem State.serve_keeps (hat : ∀ (s : State) st, obs (s.at st) = obs s) (hexec : ∀ i, Keeps obs (exec i))
    (st : UnitId → Station) (u : UnitId) : Keeps obs (State.serve st u) := by
  intro s t h
  obtain ⟨-, rfl⟩ | ⟨-, r, i, -, -, hi⟩ := State.serve_next h
  · rfl
  · exact (hexec i _ t hi).trans (hat s _)

theorem State.unitPhase_keeps (hat : ∀ (s : State) st, obs (s.at st) = obs s) (hexec : ∀ i, Keeps obs (exec i))
    (st : UnitId → Station) : Keeps obs (State.unitPhase st) := by
  intro s t h
  have visit : ∀ u x y, State.serve st u x = .next y → obs x = obs s → obs y = obs s :=
    fun u x y hxy hx => (State.serve_keeps hat hexec st u x y hxy).trans hx
  exact State.serveAll_keeps visit s.unitIds s t h rfl

end Phases

/-! What the instructions share. -/

/-- The visit of an instruction that writes register `dst` (R128, R132): it is fetched as `word` and stages `value`. -/
def State.writerVisit (s : State) (word : Word) (value : Except Refusal Word) (dst src0 src1 : Reg) : Result :=
  match s.station with
  | .fetch => .next (s.fetchWord word)
  | .issue u n => .next (s.issueWriter u n dst src0 src1)
  | .readOperands u => s.readWriter u dst
  | .execute u => s.executeWriter u value
  | .writeBack u => s.writeBackRegister u dst
  | .clearBusy u => .next (s.refreshReadiness u src0 src1)

/-- LD, ADD, SUB, MUL, DIV are served alike: they differ in the word and in the value they stage. -/
theorem exec_eq_writerVisit (s : State) {k : Kind} (hk : k ≠ .st) (d a b : Reg) (imm : Addr) :
    ∃ value, exec (.ofKind k d a b imm) s =
      s.writerVisit (encodeWith s.cfg.opcodes (.ofKind k d a b imm)) value d a b := by
  cases k with
  | st => exact absurd rfl hk
  | ld => exact ⟨s.memOperand imm, rfl⟩
  | add => exact ⟨s.regOperands (fadd s.cfg.numerics) a b, rfl⟩
  | sub => exact ⟨s.regOperands (fsub s.cfg.numerics) a b, rfl⟩
  | mul => exact ⟨s.regOperands (fmul s.cfg.numerics) a b, rfl⟩
  | div => exact ⟨s.regOperands (fdiv s.cfg.numerics) a b, rfl⟩

/-! The cycle counter is such an observation. -/

theorem State.finishStore_keeps_cc (u : UnitId) (imm : Addr) : Keeps State.cc fun s => s.finishStore u imm := by
  intro s t h
  obtain ⟨-, rfl⟩ | ⟨-, v, m, -, hm, rfl⟩ := State.finishStore_next h
  · exact s.storeBump_cc u imm
  · obtain ⟨-, rfl⟩ := State.memWrite_ok hm
    rw [State.stampExec_cc, State.storeBump_cc]

theorem State.commitRegister_keeps_cc (u : UnitId) (dst : Reg) : Keeps State.cc fun s => s.commitRegister u dst := by
  intro s t h
  obtain ⟨v, -, rfl⟩ := State.commitRegister_next h
  simp

theorem State.writerVisit_cc {s t : State} {word : Word} {value : Except Refusal Word} {dst src0 src1 : Reg}
    (h : s.writerVisit word value dst src0 src1 = .next t) : t.cc = s.cc := by
  unfold State.writerVisit at h
  cases hs : s.station <;> simp only [hs] at h
  case fetch => cases h; exact s.fetchWord_cc word
  case issue u n => cases h; exact s.issueWriter_cc u n dst src0 src1
  case readOperands u => exact State.readStage_keeps (fun c => c.wawClaim_cc u dst) (fun c => c.startReading_cc u) h
  case execute u =>
    exact State.executeStage_keeps (fun c f => c.updateUnit_cc u f) (fun c t h => by cases h; exact c.stampExec_cc u) h
  case writeBack u => exact State.writeBackStage_keeps (State.commitRegister_keeps_cc u dst) h
  case clearBusy u => cases h; exact s.refreshReadiness_cc u src0 src1

theorem execSt_cc {s t : State} {dst src0 src1 : Reg} {imm : Addr}
    (h : execSt dst src0 src1 imm s = .next t) : t.cc = s.cc := by
  unfold execSt at h
  cases hs : s.station <;> simp only [hs] at h
  case fetch => cases h; exact s.fetchWord_cc _
  case issue u n => cases h; exact s.issueStore_cc u n dst src0 src1
  case readOperands u => exact State.readStage_keeps (fun _ => rfl) (fun c => c.startReading_cc u) h
  case execute u => exact State.executeStage_keeps (fun c f => c.updateUnit_cc u f) (State.finishStore_keeps_cc u imm) h
  case writeBack u => exact State.writeBackStage_keeps (fun c t h => by cases h; simp) h
  case clearBusy u => cases h; exact s.refreshReadiness_cc u src0 src1

theorem exec_keeps_cc (i : Instr) : Keeps State.cc (exec i) := by
  intro s t h
  obtain rfl | ⟨k, d, a, b, imm, rfl⟩ := Instr.eq_halt_or_ofKind i
  · cases h; rfl
  · by_cases hk : k = .st
    · subst hk
      exact execSt_cc h
    · obtain ⟨value, hv⟩ := exec_eq_writerVisit s hk d a b imm
      exact State.writerVisit_cc (hv ▸ h)

theorem State.fetchPhase_keeps_cc : Keeps State.cc State.fetchPhase :=
  State.fetchPhase_keeps State.at_cc exec_keeps_cc State.fetchWord_cc

theorem State.issuePhase_keeps_cc : Keeps State.cc State.issuePhase :=
  State.issuePhase_keeps State.at_cc exec_keeps_cc

theorem State.unitPhase_keeps_cc (st : UnitId → Station) : Keeps State.cc (State.unitPhase st) :=
  State.unitPhase_keeps State.at_cc exec_keeps_cc st

/-- R61: all six phases of a tick see the counter of its start, and only the end of the tick adds to it. -/
theorem State.tick_cc {s t : State} (h : s.tick = .next t) : t.cc = s.cc + 1 := by
  obtain ⟨f, i, r, e, w, b, hf, hi, hr, he, hw, hb, rfl⟩ := State.tick_next h
  calc b.endTick.cc
      = b.cc + 1 := b.endTick_cc
    _ = w.cc + 1 := by rw [State.unitPhase_keeps_cc _ w b hb]
    _ = e.cc + 1 := by rw [State.unitPhase_keeps_cc _ e w hw]
    _ = r.cc + 1 := by rw [State.unitPhase_keeps_cc _ r e he]
    _ = i.cc + 1 := by rw [State.unitPhase_keeps_cc _ i r hr]
    _ = f.cc + 1 := by rw [State.issuePhase_keeps_cc f i hi]
    _ = s.cc + 1 := by rw [State.fetchPhase_keeps_cc s f hf]

theorem step_cc_of_not_done {s t : State} (hd : s.done = false) (h : step s = .next t) : t.cc = s.cc + 1 := by
  obtain ⟨-, -, ⟨hdone, -⟩ | ⟨-, htick⟩⟩ := step_next h
  · rw [hd] at hdone
    cases hdone
  · exact State.tick_cc htick

/-- Settles O15: every instruction keeps the counter wherever it is served, so every phase does, and a step from a state
that is not done is one tick. -/
theorem cycleCounterCountsTicks : Obligations.CycleCounterCountsTicks :=
  ⟨exec_keeps_cc, State.fetchPhase_keeps_cc, State.issuePhase_keeps_cc, State.unitPhase_keeps_cc,
    fun _ _ => step_cc_of_not_done, rfl⟩

end Sys2Proof.Machine
end

section
/-! Compaction (41_queue_fetch.md R72, R73): the slot a record moves to, and the units that follow it there. -/

namespace Sys2Proof.Machine

/-- A kept record splits the queue into the records before and after it; those before it that are kept are as many as its
new slot says. -/
theorem getElem?_filter_keptBefore {queue : List InstrRecord} {n : Nat} {r : InstrRecord} (hr : queue[n]? = some r)
    (hkept : r.kept = true) : (queue.filter InstrRecord.kept)[keptBefore queue n]? = some r := by
  obtain ⟨hn, hget⟩ := List.getElem?_eq_some_iff.mp hr
  have hsplit : queue.filter InstrRecord.kept =
      (queue.take n).filter InstrRecord.kept ++ r :: (queue.drop (n + 1)).filter InstrRecord.kept := by
    rw [← List.filter_cons_of_pos hkept, ← List.filter_append, ← hget, ← List.drop_eq_getElem_cons hn,
      List.take_append_drop]
  rw [hsplit, keptBefore, List.countP_eq_length_filter, List.getElem?_append_right le_rfl, Nat.sub_self,
    List.getElem?_cons_zero]

theorem FunctionalUnit.remap_of_busy {f : FunctionalUnit} (queue : List InstrRecord) (h : f.busy = true) :
    f.remap queue = { f with slot := f.slot.map (keptBefore queue) } := if_pos h

theorem FunctionalUnit.remap_of_idle {f : FunctionalUnit} (queue : List InstrRecord) (h : f.busy = false) :
    f.remap queue = f := if_neg (Bool.eq_false_iff.mp h)

variable {s : State} {u : UnitId} {n : Nat} {r : InstrRecord}

theorem State.unit_compact_of_serving (hbusy : (s.unit u).busy = true) (hserv : s.Serving u n r) :
    s.compact.unit u = { s.unit u with slot := some (keptBefore s.queue n) } := by
  obtain ⟨hslot, -⟩ := hserv
  rw [s.unit_compact u, FunctionalUnit.remap_of_busy s.queue hbusy, hslot, Option.map_some]

/-- R73: the back-reference and the record move to the same slot. -/
theorem State.inst_compact_of_serving (hbusy : (s.unit u).busy = true) (hserv : s.Serving u n r)
    (hkept : r.kept = true) : s.compact.inst u = some r := by
  have ⟨_, hrec⟩ := hserv
  rw [State.inst, State.unit_compact_of_serving hbusy hserv, Option.bind_some, State.compact_queue]
  exact getElem?_filter_keptBefore hrec hkept

/-- Settles O20: the queue is filtered by definition, and a unit is remapped to where the filter moves its record. -/
theorem compactionKeepsBackReferences : Obligations.CompactionKeepsBackReferences := by
  intro s
  refine ⟨s.compact_queue, ?served, ?idle, rfl⟩
  case served =>
    intro u n r hbusy hserv hwrite
    have hkept : r.kept = true := Option.isNone_iff_eq_none.mpr hwrite
    have hcount : keptBefore s.queue n = ((s.queue.take n).filter fun x => x.write.isNone).length :=
      List.countP_eq_length_filter
    exact ⟨State.inst_compact_of_serving hbusy hserv hkept, hcount ▸ State.unit_compact_of_serving hbusy hserv⟩
  case idle =>
    intro u hidle
    rw [s.unit_compact u, FunctionalUnit.remap_of_idle s.queue hidle]

end Sys2Proof.Machine
end

section
/-! Issue (42_issue.md R82, R83, R84): sampling, claim and bookkeeping, each a change of the unit, are one change of it that
replaces every field; the kind of the instruction only decides the WAW flag and the scoreboard claim. -/

namespace Sys2Proof.Machine

/-- The unit an issue to slot `n` leaves, its sources sampled from the scoreboard of `s`. -/
def State.issuedUnit (s : State) (n : Nat) (dst src0 src1 : Reg) (waw : Bool) : FunctionalUnit :=
  { busy := true, remaining := 0, dst := some dst, src0 := some src0, src1 := some src1
    ready0 := (s.owner src0).isNone, q0 := s.owner src0, ready1 := (s.owner src1).isNone, q1 := s.owner src1
    result := none, slot := some n, waw := waw }

/-- An issue but for the scoreboard: the unit and the record (R82, R84). -/
def State.placed (s : State) (u : UnitId) (n : Nat) (dst src0 src1 : Reg) (waw : Bool) : State :=
  (s.updateUnit u fun _ => s.issuedUnit n dst src0 src1 waw).updateRecord n
    fun r => { r with issue := some s.cc, unit := some u.idx }

/-- The scoreboard claim of an issue (R83): a free entry, and not for a store. -/
def State.claimFree (s : State) (k : Kind) (u : UnitId) (dst : Reg) : State :=
  if k ≠ .st ∧ s.owner dst = none then s.setOwner dst (some u) else s

/-- The state an issue leaves, for an instruction of any kind. -/
def State.issued (s : State) (k : Kind) (u : UnitId) (n : Nat) (dst src0 src1 : Reg) : State :=
  (s.placed u n dst src0 src1 (decide (k ≠ .st) && (s.owner dst).isSome)).claimFree k u dst

section Claim

variable (s : State) (k : Kind) (u : UnitId) (dst : Reg)

@[simp] theorem State.claimFree_queue : (s.claimFree k u dst).queue = s.queue := by
  unfold State.claimFree; split <;> rfl

@[simp] theorem State.claimFree_pools : (s.claimFree k u dst).pools = s.pools := by
  unfold State.claimFree; split <;> rfl

@[simp] theorem State.unit_claimFree (v : UnitId) : (s.claimFree k u dst).unit v = s.unit v := by
  simp [State.unit]

theorem State.owner_claimFree (x : Reg) :
    (s.claimFree k u dst).owner x = if k ≠ .st ∧ x = dst ∧ s.owner dst = none then some u else s.owner x := by
  unfold State.claimFree
  split
  · next h =>
    obtain ⟨hk, hfree⟩ := h
    simp [State.owner_setOwner, hk, hfree, eq_comm]
  · next h => rw [if_neg fun ⟨hk, _, hfree⟩ => h ⟨hk, hfree⟩]

theorem State.claimFree_frame : s.claimFree k u dst = { s with busy := (s.claimFree k u dst).busy } := by
  unfold State.claimFree; split <;> rfl

end Claim

section Issue

variable (s : State) (u : UnitId) (n : Nat) (dst src0 src1 : Reg)

/-- No field of the unit survives an issue, whatever the WAW flag is set to. -/
theorem State.occupy_setWaw_sampleSources (waw : Bool) :
    ((s.sampleSources u dst src0 src1).setWaw u waw).occupy u n = s.placed u n dst src0 src1 waw := by
  rw [State.occupy, State.setWaw, State.sampleSources, State.updateUnit_updateUnit, State.updateUnit_updateUnit]
  rfl

theorem State.issueStore_eq_issued : s.issueStore u n dst src0 src1 = s.issued .st u n dst src0 src1 :=
  s.occupy_setWaw_sampleSources u n dst src0 src1 false

theorem State.issueWriter_eq_issued {k : Kind} (hk : k ≠ .st) :
    s.issueWriter u n dst src0 src1 = s.issued k u n dst src0 src1 := by
  have owner_placed (w : Bool) : (s.placed u n dst src0 src1 w).owner dst = s.owner dst := rfl
  rw [State.issueWriter, State.issued, State.claimFree, owner_placed]
  obtain ⟨v, howned, hclaim⟩ | ⟨hfree, hclaim⟩ := (s.sampleSources u dst src0 src1).claimDestination_cases u dst
  · have howner : s.owner dst = some v := howned
    rw [hclaim, State.occupy_setWaw_sampleSources]
    simp [hk, howner]
  · have howner : s.owner dst = none := hfree
    have occupy_setOwner (t : State) : (t.setOwner dst (some u)).occupy u n = (t.occupy u n).setOwner dst (some u) := rfl
    rw [hclaim, occupy_setOwner, State.occupy_setWaw_sampleSources]
    simp [hk, howner]

variable {s u n}

/-- Every executing instruction at its issue station. -/
theorem exec_issue (hs : s.station = .issue u n) (k : Kind) (imm : Addr) :
    exec (.ofKind k dst src0 src1 imm) s = .next (s.issued k u n dst src0 src1) := by
  by_cases hk : k = .st
  · subst hk
    rw [← State.issueStore_eq_issued]
    simp only [exec, Instr.ofKind, execSt, hs]
  · obtain ⟨value, hv⟩ := exec_eq_writerVisit s hk dst src0 src1 imm
    rw [hv, ← State.issueWriter_eq_issued s u n dst src0 src1 hk]
    simp only [State.writerVisit, hs]

variable (k : Kind)

theorem State.unit_issued_same (hu : u.idx < (s.pools.get u.kind).length) :
    (s.issued k u n dst src0 src1).unit u =
      s.issuedUnit n dst src0 src1 (decide (k ≠ .st) && (s.owner dst).isSome) := by
  rw [State.issued, State.unit_claimFree, State.placed, State.unit_updateRecord, State.unit_updateUnit_same _ hu]

theorem State.unit_issued_ne {v : UnitId} (hv : v ≠ u) : (s.issued k u n dst src0 src1).unit v = s.unit v := by
  rw [State.issued, State.unit_claimFree, State.placed, State.unit_updateRecord, State.unit_updateUnit_ne s _ hv.symm]

theorem State.issued_queue {r : InstrRecord} (hr : s.queue[n]? = some r) :
    (s.issued k u n dst src0 src1).queue = s.queue.set n { r with issue := some s.cc, unit := some u.idx } := by
  rw [State.issued, State.claimFree_queue, State.placed]
  exact State.updateRecord_queue_of_get _ hr

theorem State.owner_issued (x : Reg) :
    (s.issued k u n dst src0 src1).owner x =
      if k ≠ .st ∧ x = dst ∧ s.owner dst = none then some u else s.owner x :=
  State.owner_claimFree _ k u dst x

theorem State.issued_frame :
    s.issued k u n dst src0 src1 =
      { s with pools := (s.issued k u n dst src0 src1).pools, queue := (s.issued k u n dst src0 src1).queue
               busy := (s.issued k u n dst src0 src1).busy } := by
  rw [State.issued, State.claimFree_pools, State.claimFree_queue]
  exact State.claimFree_frame _ k u dst

end Issue

/-- Settles O24: `exec` at the issue station answers the issued state, which is read off part by part. -/
theorem issueRecordsHazardsAndClaims : Obligations.IssueRecordsHazardsAndClaims := by
  intro s u n r k d a b imm hs hu hr
  exact ⟨s.issued k u n d a b, exec_issue d a b hs k imm, State.unit_issued_same d a b k hu,
    fun _ hv => State.unit_issued_ne d a b k hv, State.issued_queue d a b k hr, State.owner_issued d a b k,
    State.issued_frame d a b k⟩

end Sys2Proof.Machine
end

section
/-! The codec of instructions (30_encoding.md R53, R55, R56): decoding and encoding are inverse on instructions. -/

namespace Sys2Proof

/-- The opcode number of an executing kind (R53). -/
def OpcodeMap.number (m : OpcodeMap) : Kind → Opcode
  | .add => m.add
  | .sub => m.sub
  | .mul => m.mul
  | .div => m.div
  | .ld => m.ld
  | .st => m.st

theorem encodeWith_ofKind (m : OpcodeMap) (k : Kind) (d a b : Reg) (imm : Addr) :
    encodeWith m (.ofKind k d a b imm) = encodeFields ⟨m.number k, d, a, b, imm⟩ := by cases k <;> rfl

theorem decodeFields_encodeWith (m : OpcodeMap) (k : Kind) (d a b : Reg) (imm : Addr) :
    decodeFields (encodeWith m (.ofKind k d a b imm)) = ⟨m.number k, d, a, b, imm⟩ := by
  rw [encodeWith_ofKind, decodeFields_encodeFields]

theorem OpcodeMap.kindOf_number {m : OpcodeMap} (h : m.legal = true) (k : Kind) : m.kindOf (m.number k) = some k := by
  obtain ⟨hld, hst, hadd, hsub, hmul, hdiv, -⟩ := Laws.kindOf_numbers h
  cases k with
  | add => exact hadd
  | sub => exact hsub
  | mul => exact hmul
  | div => exact hdiv
  | ld => exact hld
  | st => exact hst

theorem OpcodeMap.number_of_kindOf {m : OpcodeMap} {o : Opcode} {k : Kind} (h : m.kindOf o = some k) :
    o = m.number k := by
  unfold OpcodeMap.kindOf at h
  split_ifs at h with h1 h2 h3 h4 h5 h6 <;> cases h <;> assumption

theorem OpcodeMap.opcode_haltWord {m : OpcodeMap} (h : m.legal = true) :
    (decodeFields m.haltWord).opcode = m.halt := by
  unfold OpcodeMap.legal at h
  rw [Bool.and_eq_true] at h
  exact eq_of_beq h.2

/-- The halt word has no kind, so no executing instruction is encoded by it. -/
theorem encodeWith_ofKind_ne_haltWord {m : OpcodeMap} (h : m.legal = true) (k : Kind) (d a b : Reg) (imm : Addr) :
    encodeWith m (.ofKind k d a b imm) ≠ m.haltWord := by
  intro heq
  obtain ⟨-, -, -, -, -, -, hhalt⟩ := Laws.kindOf_numbers h
  have hop : m.number k = m.halt := by
    rw [← OpcodeMap.opcode_haltWord h, ← heq, decodeFields_encodeWith]
  have hkind := OpcodeMap.kindOf_number h k
  rw [hop, hhalt] at hkind
  cases hkind

@[simp] theorem decodeWith_haltWord (m : OpcodeMap) : decodeWith m m.haltWord = .ok .halt := if_pos rfl

/-- All words that decode to an instruction: the halt word, and the words whose opcode has a kind. -/
theorem decodeWith_ok {m : OpcodeMap} {w : Word} {i : Instr} (h : decodeWith m w = .ok i) :
    (w = m.haltWord ∧ i = .halt) ∨
      (w ≠ m.haltWord ∧ ∃ k, m.kindOf (decodeFields w).opcode = some k ∧
        i = .ofKind k (decodeFields w).dst (decodeFields w).src0 (decodeFields w).src1 (decodeFields w).imm) := by
  unfold decodeWith at h
  split at h
  · next hw => cases h; exact .inl ⟨hw, rfl⟩
  · next hw =>
    refine .inr ⟨hw, ?_⟩
    cases hk : m.kindOf (decodeFields w).opcode with
    | some k => simp only [hk] at h; cases h; exact ⟨k, rfl, rfl⟩
    | none => simp only [hk] at h; split at h <;> cases h

theorem decodeWith_of_kind {m : OpcodeMap} {w : Word} {k : Kind} (hw : w ≠ m.haltWord)
    (hk : m.kindOf (decodeFields w).opcode = some k) :
    decodeWith m w =
      .ok (.ofKind k (decodeFields w).dst (decodeFields w).src0 (decodeFields w).src1 (decodeFields w).imm) := by
  simp only [decodeWith, if_neg hw, hk]

theorem decodeWith_encodeWith {m : OpcodeMap} (h : m.legal = true) (i : Instr) :
    decodeWith m (encodeWith m i) = .ok i := by
  obtain rfl | ⟨k, d, a, b, imm, rfl⟩ := Instr.eq_halt_or_ofKind i
  · exact decodeWith_haltWord m
  · have hfields := decodeFields_encodeWith m k d a b imm
    have hkind : m.kindOf (decodeFields (encodeWith m (.ofKind k d a b imm))).opcode = some k := by
      rw [hfields, OpcodeMap.kindOf_number h]
    rw [decodeWith_of_kind (encodeWith_ofKind_ne_haltWord h k d a b imm) hkind, hfields]

/-- Settles O2: the fields of the word are the operands under the kind's number, and legal numbers keep the seven apart. -/
theorem decodeInvertsEncode : Obligations.DecodeInvertsEncode := by
  refine ⟨fun m i h => decodeWith_encodeWith h i, fun i => ?_⟩
  have hlegal : OpcodeMap.default.legal = true := by decide
  have hword : BitVec.ofNat 32 ((encode i).toNat % 2 ^ 32) = encode i := by
    rw [Nat.mod_eq_of_lt (encode i).isLt, BitVec.ofNat_toNat, BitVec.setWidth_eq]
  rw [decodeTableWord, hword, decode, encode, decodeWith_encodeWith hlegal]

theorem encodeWith_of_decodeWith {m : OpcodeMap} {w : Word} {i : Instr} (h : decodeWith m w = .ok i) :
    encodeWith m i = w := by
  obtain ⟨rfl, rfl⟩ | ⟨-, k, hk, rfl⟩ := decodeWith_ok h
  · rfl
  · rw [encodeWith_ofKind, ← OpcodeMap.number_of_kindOf hk]
    exact encodeFields_decodeFields w

/-- Settles O3: a word that decodes is put together again from the fields read off it. -/
theorem encodeInvertsDecode : Obligations.EncodeInvertsDecode := fun _ _ _ => encodeWith_of_decodeWith

/-- No instruction: a word that is not the halt word and whose opcode has no kind. -/
theorem exists_error_iff (m : OpcodeMap) (w : Word) :
    (∃ e, decodeWith m w = .error e) ↔ w ≠ m.haltWord ∧ m.kindOf (decodeFields w).opcode = none := by
  by_cases hw : w = m.haltWord
  · subst hw; simp
  · simp only [decodeWith, if_neg hw]
    cases m.kindOf (decodeFields w).opcode with
    | some k => simp
    | none => split_ifs <;> simp [hw]

/-- R55: under the default numbers the opcodes without a kind are those from 6 on. -/
theorem kindOf_default_eq_none : ∀ o : Opcode, OpcodeMap.default.kindOf o = none ↔ 6 ≤ o.toNat := by decide

/-- Settles O4: the opcode is the high byte, and it has no kind from 6 on. -/
theorem undefinedWordsAreTheReservedOnes : Obligations.UndefinedWordsAreTheReservedOnes := by
  intro w
  have hbyte : (decodeFields w).opcode.toNat = w.toNat / 2 ^ 24 := by
    have hop := ((decodeFields_eq_iff w _).mp rfl).1
    have hw := w.isLt
    omega
  rw [decode, exists_error_iff, kindOf_default_eq_none, hbyte, and_comm]
  rfl

/-- Settles O5: each row is one evaluation of the decoder. -/
theorem sampleWordsDecode : Obligations.SampleWordsDecode := by
  unfold Obligations.SampleWordsDecode
  decide

end Sys2Proof
end

section
/-! Reset (70_reset_and_hazards.md R160): every unit idle, nothing queued, no register with a producer. -/

namespace Sys2Proof.Machine

section Reset

variable (p : Params)

@[simp] theorem State.resetOf_length (k : Kind) : ((State.resetOf p).pools.get k).length = p.nrUnits.get k := by
  simp [State.resetOf]

@[simp] theorem State.resetOf_unit (u : UnitId) : (State.resetOf p).unit u = FunctionalUnit.idle := by
  simp only [State.unit, State.resetOf, PerKind.get_map, List.getElem?_replicate]
  split <;> rfl

@[simp] theorem State.resetOf_owner (r : Reg) : (State.resetOf p).owner r = none := by
  simp [State.owner, State.resetOf]

/-- Settles O7: each clause is a field of `State.resetOf`; units and scoreboard entries are read off it. -/
theorem resetPutsEveryFieldAtItsResetValue : Obligations.ResetPutsEveryFieldAtItsResetValue := fun s =>
  ⟨rfl, rfl, rfl, rfl, rfl, rfl, State.resetOf_length s.cfg, State.resetOf_unit s.cfg, State.resetOf_owner s.cfg,
    rfl, rfl, rfl, rfl, rfl, rfl⟩

/-- No unit is busy at reset, so that what the invariants say of busy units says nothing. -/
theorem State.resetOf_not_busy (u : UnitId) : ¬((State.resetOf p).unit u).busy = true := by
  rw [State.resetOf_unit]
  exact Bool.false_ne_true

variable {p}

theorem State.resetOf_inv (hwf : p.memInit.wf = true) (hmem : ∀ c ∈ p.memInit, c.1 < p.memWords) :
    (State.resetOf p).Inv where
  memory := ⟨hwf, hmem⟩
  queue := ⟨Nat.zero_le _, Nat.zero_le _, List.Pairwise.nil, nofun⟩
  pools := ⟨fun k _ => State.resetOf_length p k, fun u _ _ => State.resetOf_unit p u⟩
  links := ⟨fun u _ hbusy => absurd hbusy (State.resetOf_not_busy p u), nofun⟩
  scoreboard := fun r v hv => by
    rw [State.resetOf_owner] at hv
    cases hv
  ownership := fun u _ hbusy => absurd hbusy (State.resetOf_not_busy p u)
  readiness := fun u _ hbusy => absurd hbusy (State.resetOf_not_busy p u)
  betweenTicks := rfl

/-- Settles O8: at reset there is no record, no trace record and no busy unit of which an invariant could speak. -/
theorem invariantsHoldAtReset : Obligations.InvariantsHoldAtReset := by
  intro p hwf hmem
  refine ⟨State.resetOf_inv hwf hmem, ?timely, ?trace, nofun, List.Pairwise.nil⟩
  case timely => exact ⟨nofun, fun u _ hbusy => absurd hbusy (State.resetOf_not_busy p u), nofun⟩
  case trace => exact ⟨List.Pairwise.nil, nofun, nofun, nofun⟩

end Reset

end Sys2Proof.Machine
end

section
/-! The step (10_state.md R29) and the phases of a tick (40_pipeline_controller.md R60, R62, R70) as equations. -/

namespace Sys2Proof.Machine

/-! The configuration that a step asks for (R8, R178). -/

theorem Params.latenciesLegal_iff (p : Params) : p.latenciesLegal = true ↔ ∀ k, 2 ≤ p.delay.get k := by
  simp [Params.latenciesLegal]

theorem step_of_legal {s : State} (h : s.cfg.legal = true) : step s = if s.done then .next s else s.tick := by
  unfold Params.legal at h
  rw [Bool.and_eq_true] at h
  simp [step, h.1, h.2]

/-- Settles O9: the two tests of `step`, latencies first. -/
theorem illegalConfigurationIsRefused : Obligations.IllegalConfigurationIsRefused := by
  constructor
  · intro s k hk
    have hslow : s.cfg.latenciesLegal = false := by
      rw [← Bool.not_eq_true, Params.latenciesLegal_iff]
      exact fun h => Nat.not_lt.mpr (h k) hk
    exact if_pos hslow
  · intro s hk hdup
    have hfast : ¬s.cfg.latenciesLegal = false := by
      rw [Bool.not_eq_false, Params.latenciesLegal_iff]
      exact hk
    have hnum : s.cfg.opcodes.legal = false := by
      rw [← Bool.not_eq_true]
      exact fun h => hdup (Laws.opcodes_distinct h)
    rw [step, if_neg hfast, if_pos hnum]

/-! `done` (R64). -/

theorem State.done_iff (s : State) : s.done = true ↔ s.haltReached = true ∧ ∀ r ∈ s.queue, r.write.isSome := by
  simp [State.done]

theorem State.not_done_of_not_halted {s : State} (h : s.haltReached = false) : s.done = false := by
  simp [State.done, h]

/-- Settles O10: `done` is defined so, and a step tests it before the tick. -/
theorem doneStateHolds : Obligations.DoneStateHolds := fun s =>
  ⟨s.done_iff, fun hlegal hdone => by rw [step_of_legal hlegal, if_pos hdone]⟩

theorem step_of_not_done {s : State} (hlegal : s.cfg.legal = true) (hdone : s.done = false) : step s = s.tick := by
  simp [step_of_legal hlegal, hdone]

/-! The fetch phase (R70), by what stands at the cursor. -/

section Fetch

variable {s : State}

theorem State.fetchPhase_of_halted (h : s.haltReached = true) : s.fetchPhase = .next s := if_pos h

theorem State.fetchPhase_of_past_end (hhalt : s.haltReached = false) (hpc : s.cfg.memWords ≤ s.pc) :
    s.fetchPhase = .fault .fetchPastEnd := by
  simp [State.fetchPhase, hhalt, hpc]

theorem State.fetchPhase_of_ok {i : Instr} (hhalt : s.haltReached = false) (hpc : s.pc < s.cfg.memWords)
    (hdec : decodeWith s.cfg.opcodes (s.mem.read s.pc) = .ok i) : s.fetchPhase = exec i (s.at .fetch) := by
  simp only [State.fetchPhase, hhalt, Nat.not_le.mpr hpc, if_false, Bool.false_eq_true, hdec]

theorem State.fetchPhase_of_error {e : DecodeError} (hhalt : s.haltReached = false) (hpc : s.pc < s.cfg.memWords)
    (hdec : decodeWith s.cfg.opcodes (s.mem.read s.pc) = .error e) :
    s.fetchPhase = .next (s.fetchWord (s.mem.read s.pc)) := by
  simp only [State.fetchPhase, hhalt, Nat.not_le.mpr hpc, if_false, Bool.false_eq_true, hdec]

end Fetch

/-- Settles O11: a tick begins with the fetch phase, which stops there. -/
theorem fetchPastEndIsStuck : Obligations.FetchPastEndIsStuck := by
  intro s hlegal hhalt hpc
  rw [step_of_not_done hlegal (State.not_done_of_not_halted hhalt), State.tick, State.fetchPhase_of_past_end hhalt hpc]
  rfl

/-- The phases after fetch, each from the state the one before left. -/
theorem State.afterFetch_eq (s : State) :
    s.afterFetch =
      andThen s.issuePhase fun i =>
      andThen (State.unitPhase .readOperands i) fun r =>
      andThen (State.unitPhase .execute r) fun e =>
      andThen (State.unitPhase .writeBack e) fun w =>
      andThen (State.unitPhase .clearBusy w) fun b =>
      .next { b.emitUnitTrace with cc := b.cc + 1, station := .fetch } := by
  simp only [State.afterFetch, andThen_assoc, State.endTick]

/-- R62: the units in pool order, pool by pool. -/
theorem State.unitIds_eq_append (s : State) :
    s.unitIds =
      (List.range s.pools.add.length).map (UnitId.mk .add) ++ (List.range s.pools.sub.length).map (UnitId.mk .sub) ++
        (List.range s.pools.mul.length).map (UnitId.mk .mul) ++ (List.range s.pools.div.length).map (UnitId.mk .div) ++
        (List.range s.pools.ld.length).map (UnitId.mk .ld) ++ (List.range s.pools.st.length).map (UnitId.mk .st) := by
  simp [State.unitIds, Kind.all, PerKind.get]

/-- Settles O12: the step is the tick, the fetch phase serves `i`, and the phases after it compose associatively. -/
theorem stepServesTheFetchedInstruction : Obligations.StepServesTheFetchedInstruction := by
  refine ⟨?fetching, ?halted, ?order⟩
  case fetching =>
    intro s i hlegal hhalt hpc hdec
    rw [step_of_not_done hlegal (State.not_done_of_not_halted hhalt), State.tick, State.fetchPhase_of_ok hhalt hpc hdec]
    congr 1
    funext f
    exact f.afterFetch_eq
  case halted =>
    intro s hlegal hhalt hdone
    rw [step_of_not_done hlegal hdone, State.tick, State.fetchPhase_of_halted hhalt]
    exact s.afterFetch_eq
  case order =>
    intro st s
    rw [← State.unitIds_eq_append, State.foldl_serve]
    rfl

/-- A visit (R90, R100, R110, R115) of a busy unit whose record has a kind. -/
theorem State.serve_of_serving {s : State} {u : UnitId} {st : UnitId → Station} {n : Nat} {r : InstrRecord} {k : Kind}
    (hbusy : (s.unit u).busy = true) (hserv : s.Serving u n r) (hk : s.cfg.opcodes.kindOf r.opcode = some k) :
    s.serve st u = exec (.ofKind k r.dst r.src0 r.src1 r.imm) (s.at (st u)) := by
  obtain ⟨hslot, hrec⟩ := hserv
  simp only [State.serve, hbusy, if_true, State.inst_of_slot hslot, hrec, Option.bind_some, InstrRecord.instr, hk,
    Option.map_some]

theorem State.serve_of_idle {s : State} {u : UnitId} (st : UnitId → Station) (hidle : (s.unit u).busy = false) :
    s.serve st u = .next s := by
  simp [State.serve, hidle]

/-- Settles O13: the two branches of a visit. -/
theorem unitsAreServedAsTheirInstructionSays : Obligations.UnitsAreServedAsTheirInstructionSays := fun _ _ st =>
  ⟨State.serve_of_idle st, fun _ _ _ => State.serve_of_serving⟩

/-- Settles O21. -/
theorem haltSetsTheHaltFlagOnly : Obligations.HaltSetsTheHaltFlagOnly := fun _ => rfl

end Sys2Proof.Machine
end

section
/-! Fetching a word (41_queue_fetch.md R70 to R76): with a free slot it is queued, without one it is turned away. -/

namespace Sys2Proof.Machine

section Fetch

variable {s : State}

theorem State.fetchWord_of_room (w : Word) (h : (s.queue.filter fun r => r.write.isNone).length < 16) :
    s.fetchWord w =
      { s.compact with
        queue := (s.queue.filter fun r => r.write.isNone) ++ [newRecord w s.pc], pc := s.pc + 1 } :=
  if_pos h

theorem State.fetchWord_of_full (w : Word) (h : 16 ≤ (s.queue.filter fun r => r.write.isNone).length) :
    s.fetchWord w = s.compact :=
  if_neg (Nat.not_lt.mpr h)

/-- Every executing instruction at the fetch cursor. -/
theorem exec_fetch (hs : s.station = .fetch) (k : Kind) (d a b : Reg) (imm : Addr) :
    exec (.ofKind k d a b imm) s = .next (s.fetchWord (encodeWith s.cfg.opcodes (.ofKind k d a b imm))) := by
  by_cases hk : k = .st
  · subst hk
    simp only [exec, Instr.ofKind, execSt, hs]
  · obtain ⟨value, hv⟩ := exec_eq_writerVisit s hk d a b imm
    simp only [hv, State.writerVisit, hs]

end Fetch

/-- Settles O14: the fetch phase queues the word as it stands, and the phases follow. -/
theorem undefinedWordIsQueued : Obligations.UndefinedWordIsQueued := by
  intro s e hlegal hhalt hpc hdec hroom
  rw [step_of_not_done hlegal (State.not_done_of_not_halted hhalt), State.tick, State.fetchPhase_of_error hhalt hpc hdec,
    andThen_of_next, State.afterFetch_eq, State.fetchWord_of_room _ hroom]

/-- Settles O17: the queued record holds the operands, since they are the fields of the instruction's word. -/
theorem fetchedInstructionEntersTheQueue : Obligations.FetchedInstructionEntersTheQueue := by
  intro s k d a b imm hs hroom
  rw [exec_fetch hs, State.fetchWord_of_room _ hroom]
  have hopcode : (encodeWith s.cfg.opcodes (.ofKind k d a b imm)).extractLsb' 24 8 = s.cfg.opcodes.number k :=
    congrArg Fields.opcode (decodeFields_encodeWith s.cfg.opcodes k d a b imm)
  simp only [newRecord, decodeFields_encodeWith, hopcode]

/-- Settles O19. -/
theorem fullQueueTurnsFetchAway : Obligations.FullQueueTurnsFetchAway := by
  intro s k d a b imm hs hfull
  exact ⟨s.compact, by rw [exec_fetch hs, State.fetchWord_of_full _ hfull], rfl, rfl⟩

end Sys2Proof.Machine
end

section
/-! One unit and the record it serves changed together: every visit of a unit comes to such a change, so that what it does
to units and records is said once. -/

namespace Sys2Proof

theorem PerKind.update_congr {α : Type} {p : PerKind α} {k : Kind} {f g : α → α} (h : f (p.get k) = g (p.get k)) :
    p.update k f = p.update k g := by
  cases k <;> simp_all [PerKind.update, PerKind.get]

end Sys2Proof

namespace Sys2Proof.Machine

/-- Unit `u` becomes `f`, and the record in slot `n` becomes `r`. -/
def State.put (s : State) (u : UnitId) (n : Nat) (f : FunctionalUnit) (r : InstrRecord) : State :=
  { s with pools := s.pools.update u.kind fun us => us.set u.idx f, queue := s.queue.set n r }

section Put

variable (s : State) (u : UnitId) (n : Nat) (f : FunctionalUnit) (r : InstrRecord)

@[simp] theorem State.put_cfg : (s.put u n f r).cfg = s.cfg := rfl
@[simp] theorem State.put_regs : (s.put u n f r).regs = s.regs := rfl
@[simp] theorem State.put_pc : (s.put u n f r).pc = s.pc := rfl
@[simp] theorem State.put_cc : (s.put u n f r).cc = s.cc := rfl
@[simp] theorem State.put_haltReached : (s.put u n f r).haltReached = s.haltReached := rfl
@[simp] theorem State.put_mem : (s.put u n f r).mem = s.mem := rfl
@[simp] theorem State.put_queue : (s.put u n f r).queue = s.queue.set n r := rfl
@[simp] theorem State.put_busy : (s.put u n f r).busy = s.busy := rfl
@[simp] theorem State.put_instrTrace : (s.put u n f r).instrTrace = s.instrTrace := rfl
@[simp] theorem State.put_unitTrace : (s.put u n f r).unitTrace = s.unitTrace := rfl
@[simp] theorem State.put_station : (s.put u n f r).station = s.station := rfl
@[simp] theorem State.owner_put (x : Reg) : (s.put u n f r).owner x = s.owner x := rfl
@[simp] theorem State.reg_put (x : Reg) : (s.put u n f r).reg x = s.reg x := rfl

@[simp] theorem State.length_put (k : Kind) : ((s.put u n f r).pools.get k).length = (s.pools.get k).length := by
  simp only [State.put, PerKind.get_update]
  split <;> simp

variable {s u}

theorem State.getElem?_pool (hu : u.idx < (s.pools.get u.kind).length) :
    (s.pools.get u.kind)[u.idx]? = some (s.unit u) := by
  simp [State.unit, List.getElem?_eq_getElem hu]

theorem State.updateUnit_eq_set (g : FunctionalUnit → FunctionalUnit) (hu : u.idx < (s.pools.get u.kind).length) :
    s.updateUnit u g = { s with pools := s.pools.update u.kind fun us => us.set u.idx (g (s.unit u)) } := by
  have hpool : (s.pools.get u.kind).modify u.idx g = (s.pools.get u.kind).set u.idx (g (s.unit u)) :=
    modify_eq_set_of_get g (State.getElem?_pool hu)
  have hpools : (s.updateUnit u g).pools = s.pools.update u.kind fun us => us.set u.idx (g (s.unit u)) :=
    PerKind.update_congr hpool
  rw [← hpools]
  rfl

variable {n r}

/-- The changes that a stage makes of a unit and the record it serves, as one. -/
theorem State.updateRecord_updateUnit_eq_put (hserv : s.Serving u n r) (g : FunctionalUnit → FunctionalUnit)
    (h : InstrRecord → InstrRecord) :
    (s.updateUnit u g).updateRecord n h = s.put u n (g (s.unit u)) (h r) := by
  obtain ⟨hslot, hrec⟩ := hserv
  rw [State.updateUnit_eq_set g (State.idx_lt_of_slot hslot), State.updateRecord, State.put,
    modify_eq_set_of_get h hrec]

theorem set_self_of_get {α : Type} {l : List α} {n : Nat} {a : α} (h : l[n]? = some a) : l.set n a = l := by
  obtain ⟨hn, rfl⟩ := List.getElem?_eq_some_iff.mp h
  exact List.set_getElem_self hn

theorem State.updateUnit_eq_put (hserv : s.Serving u n r) (g : FunctionalUnit → FunctionalUnit) :
    s.updateUnit u g = s.put u n (g (s.unit u)) r := by
  obtain ⟨hslot, hrec⟩ := hserv
  rw [State.updateUnit_eq_set g (State.idx_lt_of_slot hslot), State.put, set_self_of_get hrec]

theorem State.put_self (hserv : s.Serving u n r) : s.put u n (s.unit u) r = s := by
  obtain ⟨hslot, hrec⟩ := hserv
  have hsame : s.pools.update u.kind (fun us => us.set u.idx (s.unit u)) = s.pools.update u.kind fun us => us :=
    PerKind.update_congr (set_self_of_get (State.getElem?_pool (State.idx_lt_of_slot hslot)))
  have hid : s.pools.update u.kind (fun us => us) = s.pools := by cases u.kind <;> rfl
  rw [State.put, hsame, hid, set_self_of_get hrec]

theorem State.unit_put_same (f : FunctionalUnit) (x : InstrRecord) (hu : u.idx < (s.pools.get u.kind).length) :
    (s.put u n f x).unit u = f := by
  simp [State.put, State.unit, hu]

theorem State.unit_put_ne (f : FunctionalUnit) (x : InstrRecord) {v : UnitId} (hv : v ≠ u) :
    (s.put u n f x).unit v = s.unit v := by
  obtain ⟨k, j⟩ := u
  obtain ⟨k', j'⟩ := v
  simp only [State.put, State.unit, PerKind.get_update]
  split
  · next hk =>
    subst hk
    have hj : j ≠ j' := fun hj => hv (by rw [hj])
    rw [List.getElem?_set_ne hj]
  · rfl

theorem State.getElem?_put_queue (hserv : s.Serving u n r) (f : FunctionalUnit) (x : InstrRecord) :
    (s.put u n f x).queue[n]? = some x := by
  obtain ⟨-, hrec⟩ := hserv
  obtain ⟨hn, -⟩ := List.getElem?_eq_some_iff.mp hrec
  rw [State.put_queue, List.getElem?_set_self hn]

end Put

/-! Memory replaced, and a record entered into the instruction trace. -/

/-- `M <- m`. -/
def State.setMem (s : State) (m : Memory) : State := { s with mem := m }

/-- The instruction trace with `t` entered (R152). -/
def State.enter (s : State) (t : TraceRecord) : State := { s with instrTrace := insertTrace t s.instrTrace }

section Replace

variable (s : State) (m : Memory) (t : TraceRecord)

@[simp] theorem State.setMem_cfg : (s.setMem m).cfg = s.cfg := rfl
@[simp] theorem State.setMem_regs : (s.setMem m).regs = s.regs := rfl
@[simp] theorem State.setMem_pc : (s.setMem m).pc = s.pc := rfl
@[simp] theorem State.setMem_cc : (s.setMem m).cc = s.cc := rfl
@[simp] theorem State.setMem_haltReached : (s.setMem m).haltReached = s.haltReached := rfl
@[simp] theorem State.setMem_mem : (s.setMem m).mem = m := rfl
@[simp] theorem State.setMem_queue : (s.setMem m).queue = s.queue := rfl
@[simp] theorem State.setMem_pools : (s.setMem m).pools = s.pools := rfl
@[simp] theorem State.setMem_busy : (s.setMem m).busy = s.busy := rfl
@[simp] theorem State.setMem_instrTrace : (s.setMem m).instrTrace = s.instrTrace := rfl
@[simp] theorem State.setMem_unitTrace : (s.setMem m).unitTrace = s.unitTrace := rfl
@[simp] theorem State.setMem_station : (s.setMem m).station = s.station := rfl
@[simp] theorem State.unit_setMem (u : UnitId) : (s.setMem m).unit u = s.unit u := rfl
@[simp] theorem State.owner_setMem (x : Reg) : (s.setMem m).owner x = s.owner x := rfl
@[simp] theorem State.reg_setMem (x : Reg) : (s.setMem m).reg x = s.reg x := rfl

@[simp] theorem State.enter_cfg : (s.enter t).cfg = s.cfg := rfl
@[simp] theorem State.enter_regs : (s.enter t).regs = s.regs := rfl
@[simp] theorem State.enter_pc : (s.enter t).pc = s.pc := rfl
@[simp] theorem State.enter_cc : (s.enter t).cc = s.cc := rfl
@[simp] theorem State.enter_haltReached : (s.enter t).haltReached = s.haltReached := rfl
@[simp] theorem State.enter_mem : (s.enter t).mem = s.mem := rfl
@[simp] theorem State.enter_queue : (s.enter t).queue = s.queue := rfl
@[simp] theorem State.enter_pools : (s.enter t).pools = s.pools := rfl
@[simp] theorem State.enter_busy : (s.enter t).busy = s.busy := rfl
@[simp] theorem State.enter_instrTrace : (s.enter t).instrTrace = insertTrace t s.instrTrace := rfl
@[simp] theorem State.enter_unitTrace : (s.enter t).unitTrace = s.unitTrace := rfl
@[simp] theorem State.enter_station : (s.enter t).station = s.station := rfl
@[simp] theorem State.unit_enter (u : UnitId) : (s.enter t).unit u = s.unit u := rfl
@[simp] theorem State.owner_enter (x : Reg) : (s.enter t).owner x = s.owner x := rfl
@[simp] theorem State.reg_enter (x : Reg) : (s.enter t).reg x = s.reg x := rfl

end Replace

end Sys2Proof.Machine
end

section
/-! The visits of the four unit phases as equations: what an executing instruction of any kind answers at each station, for a
unit tied to a slot that holds a record (43_read_operands.md, 44_execute.md, 45_writeback.md, 46_clear_busy.md). -/

namespace Sys2Proof.Machine

variable {s : State} {u : UnitId} {n : Nat} {r : InstrRecord} (k : Kind) (d a b : Reg) (imm : Addr)

theorem State.inst_of_serving (hserv : s.Serving u n r) : s.inst u = some r := by
  obtain ⟨hslot, hrec⟩ := hserv
  rw [State.inst_of_slot hslot, hrec]

/-! Read operands (R90 to R92). -/

/-- The WAW claim (R91) of an instruction of kind `k`: a store claims nothing. -/
def State.claimed (s : State) (k : Kind) (u : UnitId) (dst : Reg) : State :=
  if k = .st then s else s.wawClaim u dst

/-- The read condition (R92) of an instruction of kind `k`, but for the tick of issue. -/
def State.readReady (s : State) (k : Kind) (u : UnitId) (dst : Reg) : Bool :=
  if k = .st then s.storeReady u else s.bothReady u && s.destinationOk u dst

/-- The state after a successful read (R92), the claim made before. -/
def State.haveRead (s : State) (u : UnitId) (n : Nat) (r : InstrRecord) : State :=
  s.put u n { s.unit u with remaining := s.cfg.delay.get u.kind - 1 } { r with read := some s.cc }

theorem State.startReading_eq (hserv : s.Serving u n r) : s.startReading u = s.haveRead u n r := by
  have ⟨hslot, _⟩ := hserv
  rw [State.startReading, State.updateInst_of_slot _ hslot]
  exact State.updateRecord_updateUnit_eq_put hserv (fun f => { f with remaining := s.cfg.delay.get u.kind - 1 })
    fun r => { r with read := some s.cc }

section Claimed

variable (s u)

theorem State.claimed_frame : s.claimed k u d = { s with busy := (s.claimed k u d).busy } := by
  unfold State.claimed State.wawClaim
  split_ifs <;> rfl

@[simp] theorem State.claimed_cfg : (s.claimed k u d).cfg = s.cfg := by rw [State.claimed_frame]
@[simp] theorem State.claimed_regs : (s.claimed k u d).regs = s.regs := by rw [State.claimed_frame]
@[simp] theorem State.claimed_cc : (s.claimed k u d).cc = s.cc := by rw [State.claimed_frame]
@[simp] theorem State.claimed_mem : (s.claimed k u d).mem = s.mem := by rw [State.claimed_frame]
@[simp] theorem State.claimed_queue : (s.claimed k u d).queue = s.queue := by rw [State.claimed_frame]
@[simp] theorem State.claimed_pools : (s.claimed k u d).pools = s.pools := by rw [State.claimed_frame]
@[simp] theorem State.unit_claimed (v : UnitId) : (s.claimed k u d).unit v = s.unit v := by simp [State.unit]

theorem State.owner_claimed (x : Reg) :
    (s.claimed k u d).owner x =
      if k ≠ .st ∧ x = d ∧ (s.unit u).waw = true ∧ s.owner d = none then some u else s.owner x := by
  unfold State.claimed
  by_cases hk : k = .st
  · simp [hk]
  · obtain ⟨hw, ho, hclaim⟩ | ⟨hno, hclaim⟩ := s.wawClaim_cases u d
    · simp [hk, hclaim, hw, ho, State.owner_setOwner, eq_comm]
    · have hfalse : ¬(k ≠ .st ∧ x = d ∧ (s.unit u).waw = true ∧ s.owner d = none) := by
        rintro ⟨-, -, hw, ho⟩
        simp [hw, ho] at hno
      rw [if_neg hk, hclaim, if_neg hfalse]

end Claimed

theorem State.serving_claimed (hserv : s.Serving u n r) : (s.claimed k u d).Serving u n r := by
  simpa [State.Serving] using hserv

theorem exec_readOperands (hs : s.station = .readOperands u) :
    exec (.ofKind k d a b imm) s = s.readStage u (fun t => t.claimed k u d) fun t => t.readReady k u d := by
  by_cases hk : k = .st
  · subst hk
    simp only [exec, Instr.ofKind, execSt, hs, State.readStore, State.claimed, State.readReady, if_true]
  · obtain ⟨value, hv⟩ := exec_eq_writerVisit s hk d a b imm
    simp only [hv, State.writerVisit, hs, State.readWriter, State.claimed, State.readReady, hk, if_false]

theorem exec_readOperands_of_read (hs : s.station = .readOperands u) (hserv : s.Serving u n r) (hread : r.read.isSome) :
    exec (.ofKind k d a b imm) s = .next s := by
  simp only [exec_readOperands k d a b imm hs, State.readStage, State.inst_of_serving hserv, hread, if_true]

/-- The read visit of an instruction that has not read: it claims, and then reads or waits. -/
theorem exec_readOperands_of_unread (hs : s.station = .readOperands u) (hserv : s.Serving u n r)
    (hread : r.read = none) :
    exec (.ofKind k d a b imm) s = .next
      (if before r.issue s.cc && (s.claimed k u d).readReady k u d then (s.claimed k u d).haveRead u n r
        else s.claimed k u d) := by
  simp only [exec_readOperands k d a b imm hs, State.readStage, State.inst_of_serving hserv, hread, Option.isSome_none,
    Bool.false_eq_true, if_false]
  split
  · rw [State.startReading_eq (State.serving_claimed k d hserv)]
  · rfl

/-! Execute (R100 to R104). -/

/-- What an instruction of kind `k` computes in its first execute cycle (R102). -/
def State.computed (s : State) (k : Kind) (src0 src1 : Reg) (imm : Addr) : Except Refusal Word :=
  match k with
  | .add => s.regOperands (fadd s.cfg.numerics) src0 src1
  | .sub => s.regOperands (fsub s.cfg.numerics) src0 src1
  | .mul => s.regOperands (fmul s.cfg.numerics) src0 src1
  | .div => s.regOperands (fdiv s.cfg.numerics) src0 src1
  | .ld => s.memOperand imm
  | .st => s.regOperand src1

/-- What an instruction of kind `k` does when its counter has reached zero (R103, R104). -/
def State.complete (k : Kind) (u : UnitId) (imm : Addr) (t : State) : Result :=
  if k = .st then t.finishStore u imm else .next (t.stampExec u)

/-- The state of a unit that goes on counting (R101 to R103): result `v` staged and the counter at `m`. -/
def State.counted (s : State) (u : UnitId) (n : Nat) (r : InstrRecord) (v : Word) (m : Nat) : State :=
  s.put u n { s.unit u with result := some v, remaining := m } r

/-- The state of a unit that has completed (R104): result `v` staged, the counter at zero, the timestamp set. -/
def State.completed (s : State) (u : UnitId) (n : Nat) (r : InstrRecord) (v : Word) : State :=
  s.put u n { s.unit u with result := some v, remaining := 0 } { r with exec := some s.cc }

theorem exec_execute (hs : s.station = .execute u) :
    exec (.ofKind k d a b imm) s = s.executeStage u (s.computed k a b imm) (State.complete k u imm) := by
  cases k with
  | st => simp only [exec, Instr.ofKind, execSt, hs]; rfl
  | ld => simp only [exec, Instr.ofKind, execLd, hs]; rfl
  | add => simp only [exec, Instr.ofKind, execAdd, hs]; rfl
  | sub => simp only [exec, Instr.ofKind, execSub, hs]; rfl
  | mul => simp only [exec, Instr.ofKind, execMul, hs]; rfl
  | div => simp only [exec, Instr.ofKind, execDiv, hs]; rfl

theorem exec_execute_of_guard_false (hs : s.station = .execute u) (hserv : s.Serving u n r)
    (hguard : (before r.read s.cc && decide (0 < (s.unit u).remaining)) = false) :
    exec (.ofKind k d a b imm) s = .next s := by
  simp only [exec_execute k d a b imm hs, State.executeStage, State.inst_of_serving hserv, hguard, Bool.false_eq_true,
    if_false]

/-- The value that unit `u` has staged after compute once (R102), if `value` is what it would compute now. -/
def State.Stages (s : State) (u : UnitId) (value : Except Refusal Word) (v : Word) : Prop :=
  (s.unit u).result = some v ∨ (s.unit u).result = none ∧ value = .ok v

theorem State.stageResult_of_stages (hserv : s.Serving u n r) {value : Except Refusal Word} {v : Word}
    (hv : s.Stages u value v) :
    s.stageResult u value = .ok (s.put u n { s.unit u with result := some v } r) := by
  unfold State.stageResult
  obtain hsome | ⟨hnone, rfl⟩ := hv
  · have hsame : { s.unit u with result := some v } = s.unit u := by rw [← hsome]
    rw [hsame, State.put_self hserv, hsome]
  · rw [hnone, ← State.updateUnit_eq_put hserv fun f => { f with result := some v }]
    rfl

theorem State.put_put (f g : FunctionalUnit) (x y : InstrRecord) :
    (s.put u n f x).put u n g y = s.put u n g y := by
  have hpools : (fun us : List FunctionalUnit => us.set u.idx g) ∘ (fun us => us.set u.idx f) =
      fun us : List FunctionalUnit => us.set u.idx g := funext fun us => List.set_set ..
  simp only [State.put, PerKind.update_update, hpools, List.set_set]

theorem State.serving_put (hserv : s.Serving u n r) {f : FunctionalUnit} (hf : f.slot = some n) (x : InstrRecord) :
    (s.put u n f x).Serving u n x := by
  have ⟨hslot, _⟩ := hserv
  exact ⟨by rw [State.unit_put_same f x (State.idx_lt_of_slot hslot), hf], State.getElem?_put_queue hserv f x⟩

theorem State.serving_counted (hserv : s.Serving u n r) (v : Word) (m : Nat) : (s.counted u n r v m).Serving u n r :=
  State.serving_put hserv (by exact hserv.1) r

theorem State.unit_counted (hserv : s.Serving u n r) (v : Word) (m : Nat) :
    (s.counted u n r v m).unit u = { s.unit u with result := some v, remaining := m } :=
  State.unit_put_same _ _ (State.idx_lt_of_slot hserv.1)

theorem State.unit_completed (hserv : s.Serving u n r) (v : Word) :
    (s.completed u n r v).unit u = { s.unit u with result := some v, remaining := 0 } :=
  State.unit_put_same _ _ (State.idx_lt_of_slot hserv.1)

theorem State.countDown_eq (hserv : s.Serving u n r) (v : Word) :
    (s.put u n { s.unit u with result := some v } r).countDown u = s.counted u n r v ((s.unit u).remaining - 1) := by
  have hstaged : (s.put u n { s.unit u with result := some v } r).Serving u n r := State.serving_put hserv (by exact hserv.1) r
  rw [State.countDown, State.updateUnit_eq_put hstaged, State.put_put, State.unit_put_same _ _
    (State.idx_lt_of_slot hserv.1), State.counted]

/-- The execute visit whose guard holds and whose value is not refused: the counter goes down, and the instruction completes
when it reaches zero. -/
theorem exec_execute_of_stages (hcycle : s.ExecuteCycle u n r) {v : Word} (hv : s.Stages u (s.computed k a b imm) v) :
    exec (.ofKind k d a b imm) s =
      if (s.unit u).remaining = 1 then State.complete k u imm (s.counted u n r v 0)
      else .next (s.counted u n r v ((s.unit u).remaining - 1)) := by
  obtain ⟨hs, hserv, hread, hpos⟩ := hcycle
  simp only [exec_execute k d a b imm hs, State.executeStage, State.inst_of_serving hserv, hread, hpos, decide_true,
    Bool.and_self, if_true, State.stageResult_of_stages hserv hv, State.countDown_eq hserv, State.unit_counted hserv]
  split
  · next hzero =>
    rw [if_pos (by omega), hzero]
  · next hzero => rw [if_neg (by omega)]

theorem exec_execute_of_refused (hcycle : s.ExecuteCycle u n r) (hnone : (s.unit u).result = none) {e : Refusal}
    (he : s.computed k a b imm = .error e) : exec (.ofKind k d a b imm) s = .refused e := by
  obtain ⟨hs, hserv, hread, hpos⟩ := hcycle
  simp only [exec_execute k d a b imm hs, State.executeStage, State.inst_of_serving hserv, hread, hpos, decide_true,
    Bool.and_self, if_true, State.stageResult, hnone, he, Except.map]

theorem State.stampExec_counted (hserv : s.Serving u n r) (v : Word) (m : Nat) :
    (s.counted u n r v m).stampExec u =
      s.put u n { s.unit u with result := some v, remaining := m } { r with exec := some s.cc } := by
  have hc : (s.counted u n r v m).Serving u n r := State.serving_counted hserv v m
  have hid : (s.counted u n r v m).updateUnit u (fun f => f) = s.counted u n r v m := by
    rw [State.updateUnit_eq_put hc, State.put_self hc]
  rw [State.stampExec, State.updateInst_of_slot _ hc.1, ← hid, State.updateRecord_updateUnit_eq_put hc,
    State.unit_counted hserv, hid]
  exact State.put_put ..

theorem State.complete_writer (hk : k ≠ .st) (hserv : s.Serving u n r) (v : Word) :
    State.complete k u imm (s.counted u n r v 0) = .next (s.completed u n r v) := by
  rw [State.complete, if_neg hk, State.stampExec_counted hserv]
  rfl

/-! Completion of a store (R103, R104). -/

theorem State.pool_eq_map (s : State) (k : Kind) :
    s.pools.get k = (List.range (s.pools.get k).length).map fun j => s.unit ⟨k, j⟩ := by
  refine List.ext_getElem (by simp) fun j hj _ => ?_
  simp [State.unit, List.getElem?_eq_getElem hj]

/-- The loads that R103 counts, by their units as by their places in the pool. -/
theorem State.countP_collides (s : State) (imm : Addr) (issued : Option Nat) :
    (s.pools.get .ld).countP (s.collides imm issued) = s.collidingLoads imm issued := by
  rw [State.pool_eq_map, List.countP_map, List.countP_eq_length_filter, State.collidingLoads]
  congr 2
  funext j
  simp only [Function.comp_apply, State.collides, State.inst]
  cases (s.unit ⟨.ld, j⟩).slot.bind fun n => s.queue[n]? with
  | none => rfl
  | some l =>
    cases issued with
    | none => simp
    | some t => simp [Bool.and_assoc, Bool.and_comm, Bool.and_left_comm, beq_eq_decide]

/-- Counting at a store's unit changes no load. -/
theorem State.collidingLoads_counted (hserv : s.Serving u n r) (hu : u.kind = .st) (v : Word) (m : Nat)
    (issued : Option Nat) : (s.counted u n r v m).collidingLoads imm issued = s.collidingLoads imm issued := by
  have hload (j : Nat) : (s.counted u n r v m).unit ⟨.ld, j⟩ = s.unit ⟨.ld, j⟩ := by
    refine State.unit_put_ne _ _ fun h => ?_
    rw [← h] at hu
    cases hu
  have hqueue : (s.counted u n r v m).queue = s.queue := set_self_of_get hserv.2
  have hlen : ((s.counted u n r v m).pools.get .ld).length = (s.pools.get .ld).length := State.length_put ..
  simp only [State.collidingLoads, State.inst, hload, hqueue, hlen]

/-- Store bump (R103) at the cycle that brings the counter to zero. -/
theorem State.storeBump_counted (hserv : s.Serving u n r) (v : Word) :
    (s.counted u n r v 0).storeBump u imm =
      s.counted u n r v ((s.counted u n r v 0).collidingLoads imm r.issue) := by
  have hc : (s.counted u n r v 0).Serving u n r := State.serving_counted hserv v 0
  have hcount : ((s.counted u n r v 0).pools.get .ld).countP
      ((s.counted u n r v 0).collides imm (((s.counted u n r v 0).inst u).bind InstrRecord.issue)) =
        (s.counted u n r v 0).collidingLoads imm r.issue := by
    rw [State.countP_collides, State.inst_of_serving hc, Option.bind_some]
  rw [State.storeBump, hcount, State.updateUnit_eq_put hc, State.unit_counted hserv, Nat.zero_add]
  exact State.put_put ..

theorem State.complete_store_of_bump (hserv : s.Serving u n r) (v : Word)
    (hbump : 0 < (s.counted u n r v 0).collidingLoads imm r.issue) :
    State.complete .st u imm (s.counted u n r v 0) =
      .next (s.counted u n r v ((s.counted u n r v 0).collidingLoads imm r.issue)) := by
  simp only [State.complete, if_true, State.finishStore, State.storeBump_counted imm hserv, State.unit_counted hserv,
    hbump.ne', if_false]

theorem State.complete_store_of_free (hserv : s.Serving u n r) (v : Word)
    (hfree : (s.counted u n r v 0).collidingLoads imm r.issue = 0) (haddr : effectiveAddress imm < s.cfg.memWords) :
    State.complete .st u imm (s.counted u n r v 0) =
      .next ((s.setMem (s.mem.write (effectiveAddress imm) v)).completed u n r v) := by
  have hwrite : (s.counted u n r v 0).memWrite (effectiveAddress imm) v =
      .ok ((s.setMem (s.mem.write (effectiveAddress imm) v)).counted u n r v 0) :=
    State.memWrite_of_lt v haddr
  have hserv' : (s.setMem (s.mem.write (effectiveAddress imm) v)).Serving u n r := hserv
  simp only [State.complete, if_true, State.finishStore, State.storeBump_counted imm hserv, hfree,
    State.unit_counted hserv, hwrite, State.stampExec_counted hserv']
  rfl

theorem State.complete_store_of_beyond (hserv : s.Serving u n r) (v : Word)
    (hfree : (s.counted u n r v 0).collidingLoads imm r.issue = 0) (haddr : s.cfg.memWords ≤ effectiveAddress imm) :
    State.complete .st u imm (s.counted u n r v 0) = .refused .addressBeyondMemory := by
  have hwrite : (s.counted u n r v 0).memWrite (effectiveAddress imm) v = .error .addressBeyondMemory :=
    if_neg (Nat.not_lt.mpr haddr)
  simp only [State.complete, if_true, State.finishStore, State.storeBump_counted imm hserv, hfree,
    State.unit_counted hserv, hwrite]

/-! Write back (R110 to R112). -/

/-- The state after a write-back but for the destination (R111, R152): the timestamp, the trace, the reset of the unit. -/
def State.retired (s : State) (u : UnitId) (n : Nat) (r : InstrRecord) : State :=
  (s.enter ({ r with write := some s.cc }.traceRecord s.cfg.opcodes)).put u n FunctionalUnit.idle
    { r with write := some s.cc }

/-- The commit of a staged result to the destination (R111, R112), by kind. -/
def State.delivered (s : State) (k : Kind) (u : UnitId) (dst : Reg) (v : Word) : State :=
  if k = .st then s else (s.setReg dst v).releaseDestination u dst

/-- What an instruction of kind `k` does at its write-back once the guard holds. -/
def State.commit (k : Kind) (u : UnitId) (dst : Reg) (t : State) : Result :=
  if k = .st then .next ((t.stampWrite u).resetUnit u) else t.commitRegister u dst

theorem exec_writeBack (hs : s.station = .writeBack u) :
    exec (.ofKind k d a b imm) s = s.writeBackStage u (State.commit k u d) := by
  have hcommit : State.commit k u d = if k = .st then fun t => .next ((t.stampWrite u).resetUnit u)
      else fun t => t.commitRegister u d := by
    funext t
    unfold State.commit
    split <;> rfl
  rw [hcommit]
  by_cases hk : k = .st
  · subst hk
    simp only [exec, Instr.ofKind, execSt, hs, State.writeBackStore, if_true]
  · obtain ⟨value, hv⟩ := exec_eq_writerVisit s hk d a b imm
    simp only [hv, State.writerVisit, hs, State.writeBackRegister, hk, if_false]

theorem exec_writeBack_of_guard_false (hs : s.station = .writeBack u) (hserv : s.Serving u n r)
    (hguard : (before r.exec s.cc && decide ((s.unit u).remaining = 0)) = false) :
    exec (.ofKind k d a b imm) s = .next s := by
  simp only [exec_writeBack k d a b imm hs, State.writeBackStage, State.inst_of_serving hserv, hguard,
    Bool.false_eq_true, if_false]

theorem exec_writeBack_of_cycle (hcycle : s.WriteBackCycle u n r) :
    exec (.ofKind k d a b imm) s = State.commit k u d s := by
  obtain ⟨hs, hserv, hexec, hzero⟩ := hcycle
  simp only [exec_writeBack k d a b imm hs, State.writeBackStage, State.inst_of_serving hserv, hexec, hzero,
    decide_true, Bool.and_self, if_true]

theorem State.stampWrite_eq (hserv : s.Serving u n r) :
    s.stampWrite u =
      { s with
        queue := s.queue.set n { r with write := some s.cc }
        instrTrace := insertTrace ({ r with write := some s.cc }.traceRecord s.cfg.opcodes) s.instrTrace } := by
  obtain ⟨hslot, hrec⟩ := hserv
  obtain ⟨hn, -⟩ := List.getElem?_eq_some_iff.mp hrec
  have hupd : s.updateInst u (fun r => { r with write := some s.cc }) =
      { s with queue := s.queue.set n { r with write := some s.cc } } := by
    rw [State.updateInst_of_slot _ hslot, State.updateRecord, modify_eq_set_of_get _ hrec]
  have hslot' : (State.unit { s with queue := s.queue.set n { r with write := some s.cc } } u).slot = some n := hslot
  have hinst : State.inst { s with queue := s.queue.set n { r with write := some s.cc } } u =
      some { r with write := some s.cc } := by
    rw [State.inst_of_slot hslot']
    exact List.getElem?_set_self hn
  simp only [State.stampWrite, hupd, State.logInst, hinst]

/-- The reset of a unit whose record has just been written. -/
theorem State.resetUnit_stampWrite (hserv : s.Serving u n r) : (s.stampWrite u).resetUnit u = s.retired u n r := by
  have hu : u.idx < ((s.stampWrite u).pools.get u.kind).length := by
    rw [State.stampWrite_pools]
    exact State.idx_lt_of_slot hserv.1
  rw [State.resetUnit, State.updateUnit_eq_set _ hu, State.stampWrite_eq hserv]
  rfl

theorem State.commit_store (hserv : s.Serving u n r) : State.commit .st u d s = .next (s.retired u n r) := by
  rw [State.commit, if_pos rfl, State.resetUnit_stampWrite hserv]

theorem State.releaseDestination_stampWrite (hserv : s.Serving u n r) :
    (s.stampWrite u).releaseDestination u d = (s.releaseDestination u d).stampWrite u := by
  have howner : (s.stampWrite u).owner d = s.owner d := by simp [State.owner]
  obtain ⟨ho, hr⟩ | ⟨ho, hr⟩ := s.releaseDestination_cases u d
  · have hserv' : (s.setOwner d none).Serving u n r := hserv
    rw [hr, State.releaseDestination, howner, if_pos ho, State.stampWrite_eq hserv, State.stampWrite_eq hserv']
    rfl
  · rw [hr, State.releaseDestination, howner, if_neg ho]

theorem State.serving_delivered (hserv : s.Serving u n r) (v : Word) : (s.delivered k u d v).Serving u n r := by
  unfold State.delivered State.releaseDestination
  split_ifs <;> exact hserv

theorem State.commit_of_result {v : Word} (hserv : s.Serving u n r) (hv : k = .st ∨ (s.unit u).result = some v) :
    State.commit k u d s = .next ((s.delivered k u d v).retired u n r) := by
  by_cases hk : k = .st
  · subst hk
    exact State.commit_store d hserv
  · have hres : (s.unit u).result = some v := hv.resolve_left hk
    have hserv' : (s.setReg d v).Serving u n r := hserv
    have hdel : ((s.setReg d v).releaseDestination u d).Serving u n r := by
      have h := State.serving_delivered k d hserv v
      rwa [State.delivered, if_neg hk] at h
    simp only [State.commit, if_neg hk, State.commitRegister, hres, State.delivered]
    rw [State.releaseDestination_stampWrite d hserv', State.resetUnit_stampWrite hdel]

theorem State.commit_of_no_result (hk : k ≠ .st) (hnone : (s.unit u).result = none) :
    State.commit k u d s = .fault .unitWithoutResult := by
  simp only [State.commit, if_neg hk, State.commitRegister, hnone]

section Delivered

variable (s u) (v : Word)

theorem State.delivered_frame :
    s.delivered k u d v = { s with regs := (s.delivered k u d v).regs, busy := (s.delivered k u d v).busy } := by
  unfold State.delivered State.releaseDestination
  split_ifs <;> rfl

@[simp] theorem State.delivered_cfg : (s.delivered k u d v).cfg = s.cfg := by rw [State.delivered_frame]
@[simp] theorem State.delivered_pc : (s.delivered k u d v).pc = s.pc := by rw [State.delivered_frame]
@[simp] theorem State.delivered_cc : (s.delivered k u d v).cc = s.cc := by rw [State.delivered_frame]
@[simp] theorem State.delivered_haltReached : (s.delivered k u d v).haltReached = s.haltReached := by
  rw [State.delivered_frame]
@[simp] theorem State.delivered_mem : (s.delivered k u d v).mem = s.mem := by rw [State.delivered_frame]
@[simp] theorem State.delivered_queue : (s.delivered k u d v).queue = s.queue := by rw [State.delivered_frame]
@[simp] theorem State.delivered_pools : (s.delivered k u d v).pools = s.pools := by rw [State.delivered_frame]
@[simp] theorem State.delivered_instrTrace : (s.delivered k u d v).instrTrace = s.instrTrace := by
  rw [State.delivered_frame]
@[simp] theorem State.delivered_unitTrace : (s.delivered k u d v).unitTrace = s.unitTrace := by
  rw [State.delivered_frame]
@[simp] theorem State.unit_delivered (w : UnitId) : (s.delivered k u d v).unit w = s.unit w := by simp [State.unit]

theorem State.reg_delivered (x : Reg) :
    (s.delivered k u d v).reg x = if k ≠ .st ∧ x = d then v else s.reg x := by
  unfold State.delivered
  split
  · next hk => simp [hk]
  · next hk =>
    have hreg : ((s.setReg d v).releaseDestination u d).reg x = (s.setReg d v).reg x := by simp [State.reg]
    rw [hreg, State.reg_setReg]
    simp [hk, eq_comm]

theorem State.owner_delivered (x : Reg) :
    (s.delivered k u d v).owner x = if k ≠ .st ∧ x = d ∧ s.owner d = some u then none else s.owner x := by
  unfold State.delivered
  split
  · next hk => simp [hk]
  · next hk =>
    obtain ⟨ho, hr⟩ | ⟨ho, hr⟩ := (s.setReg d v).releaseDestination_cases u d
    · have ho' : s.owner d = some u := ho
      simp [hr, State.owner_setOwner, hk, ho', eq_comm]
    · have ho' : s.owner d ≠ some u := ho
      simp [hr, ho']

end Delivered

/-! Clear busy (R115, R116). -/

theorem exec_clearBusy (hs : s.station = .clearBusy u) :
    exec (.ofKind k d a b imm) s = .next (s.refreshReadiness u a b) := by
  by_cases hk : k = .st
  · subst hk
    simp only [exec, Instr.ofKind, execSt, hs]
  · obtain ⟨value, hv⟩ := exec_eq_writerVisit s hk d a b imm
    simp only [hv, State.writerVisit, hs]

end Sys2Proof.Machine
end

section
/-! Issue (42_issue.md R80, R81): the free unit of a pool, and what the issue phase issues. -/

namespace Sys2Proof.Machine

section FreeUnit

variable {s : State} {k : Kind}

theorem State.busy_unit_of_getElem {j : Nat} (hj : j < (s.pools.get k).length) :
    (s.unit ⟨k, j⟩).busy = ((s.pools.get k)[j]).busy := by
  simp [State.unit, List.getElem?_eq_getElem hj]

theorem State.freeUnit_eq_some_iff (u : UnitId) :
    s.freeUnit k = some u ↔ u.kind = k ∧ u.idx < (s.pools.get k).length ∧ (s.unit u).busy = false ∧
      ∀ j < u.idx, (s.unit ⟨k, j⟩).busy = true := by
  obtain ⟨k', i⟩ := u
  simp only [State.freeUnit, Option.map_eq_some_iff, List.findIdx?_eq_some_iff_getElem, UnitId.mk.injEq]
  constructor
  · rintro ⟨j, ⟨hj, hidle, hbefore⟩, rfl, rfl⟩
    refine ⟨rfl, hj, ?_, fun i hi => ?_⟩
    · rw [State.busy_unit_of_getElem hj]
      simpa using hidle
    · rw [State.busy_unit_of_getElem (hi.trans hj)]
      simpa using hbefore i hi
  · rintro ⟨rfl, hi, hidle, hbefore⟩
    refine ⟨i, ⟨hi, ?_, fun j hj => ?_⟩, rfl, rfl⟩
    · rw [State.busy_unit_of_getElem hi] at hidle
      simpa using hidle
    · have hbusy := hbefore j hj
      rw [State.busy_unit_of_getElem (hj.trans hi)] at hbusy
      simpa using hbusy

theorem State.freeUnit_eq_none_iff :
    s.freeUnit k = none ↔ ∀ j < (s.pools.get k).length, (s.unit ⟨k, j⟩).busy = true := by
  simp only [State.freeUnit, Option.map_eq_none_iff, List.findIdx?_eq_none_iff, List.forall_mem_iff_getElem]
  refine forall₂_congr fun j hj => ?_
  rw [State.busy_unit_of_getElem hj]
  simp

end FreeUnit

/-- Settles O23: the search of `freeUnit` stops at the first unit that is not busy. -/
theorem freeUnitIsTheLowestIdleOne : Obligations.FreeUnitIsTheLowestIdleOne := fun _ _ =>
  ⟨State.freeUnit_eq_some_iff, State.freeUnit_eq_none_iff⟩

/-- The scan always ends in a next state: issuing cannot fail. -/
theorem State.exists_issueScan_next (s : State) (rs : List InstrRecord) (n : Nat) :
    ∃ t, s.issueScan n rs = .next t := by
  induction rs generalizing n with
  | nil => exact ⟨s, rfl⟩
  | cons r rest ih =>
    unfold State.issueScan
    split
    · exact ih (n + 1)
    · cases hc : s.issueChoice r with
      | some p =>
        obtain ⟨u, i⟩ := p
        obtain ⟨-, -, rfl⟩ := State.issueChoice_eq_some hc
        exact ⟨_, exec_issue _ _ _ rfl u.kind r.imm⟩
      | none =>
        cases s.cfg.policy with
        | inOrder => exact ⟨s, rfl⟩
        | firstFit => exact ih (n + 1)

/-- All that the issue phase does when it issues: a free unit takes an unissued record of its kind. -/
structure State.Issues (s : State) (u : UnitId) (n : Nat) (r : InstrRecord) (t : State) : Prop where
  record : s.queue[n]? = some r
  unissued : r.issue = none
  kind : s.cfg.opcodes.kindOf r.opcode = some u.kind
  free : s.freeUnit u.kind = some u
  before : ∀ x ∈ s.queue.take n, x.issue.isSome ∨ (s.cfg.policy = .firstFit ∧ s.CannotIssue x)
  result : t = (s.at (.issue u n)).issued u.kind u n r.dst r.src0 r.src1

/-- The issue phase (R80), told by what it issues. -/
theorem State.issuePhase_next {s t : State} (h : s.issuePhase = .next t) :
    (t = s ∧
        ((∀ r ∈ s.queue, r.issue.isSome) ∨
          (s.cfg.policy = .inOrder ∧ ∃ n r, s.queue[n]? = some r ∧ r.issue = none ∧ s.CannotIssue r ∧
            ∀ x ∈ s.queue.take n, x.issue.isSome) ∨
          (s.cfg.policy = .firstFit ∧ ∀ r ∈ s.queue, r.issue = none → s.CannotIssue r))) ∨
      ∃ n r u, s.Issues u n r t := by
  obtain ⟨rfl, hall | ⟨hpol, j, r, hr, hnone, hcannot, hbefore⟩ | ⟨hpol, hall⟩⟩ |
    ⟨j, r, u, i, hr, hnone, hchoice, hexec, hbefore⟩ := State.issueScan_next h
  · exact .inl ⟨rfl, .inl hall⟩
  · exact .inl ⟨rfl, .inr (.inl ⟨hpol, j, r, hr, hnone, State.issueChoice_eq_none.mp hcannot, hbefore⟩)⟩
  · exact .inl ⟨rfl, .inr (.inr ⟨hpol, fun r hr hnone => State.issueChoice_eq_none.mp (hall r hr hnone)⟩)⟩
  · obtain ⟨hkind, hfree, rfl⟩ := State.issueChoice_eq_some hchoice
    rw [Nat.zero_add, exec_issue _ _ _ rfl] at hexec
    cases hexec
    exact .inr ⟨j, r, u, hr, hnone, hkind, hfree,
      fun x hx => (hbefore x hx).imp id fun ⟨hpol, hcannot⟩ => ⟨hpol, State.issueChoice_eq_none.mp hcannot⟩, rfl⟩

/-- Settles O25: the scan always answers a next state, and what it issues is `exec` at the issue station. -/
theorem issuePhaseIssuesAtMostOne : Obligations.IssuePhaseIssuesAtMostOne := by
  intro s
  obtain ⟨t, ht⟩ := s.exists_issueScan_next s.queue 0
  refine ⟨t, ht, (State.issuePhase_next ht).imp id ?_⟩
  rintro ⟨n, r, u, hr, hnone, hkind, hfree, hbefore, rfl⟩
  exact ⟨n, r, u, hr, hnone, hkind, hfree, exec_issue _ _ _ rfl u.kind r.imm, State.issued_queue _ _ _ _ hr, hbefore⟩

end Sys2Proof.Machine
end

section
/-! The statements about the read-operands visit (43_read_operands.md R90 to R92). -/

namespace Sys2Proof.Machine

section Read

variable {s : State} {u : UnitId} {n : Nat} {r : InstrRecord} {k : Kind} {d : Reg}

theorem State.readReady_claimed_writer (hk : k ≠ .st) :
    (s.claimed k u d).readReady k u d = true ↔
      (s.unit u).ready0 = true ∧ (s.unit u).ready1 = true ∧
        ((s.unit u).waw = false ∨ s.owner d = none ∨ s.owner d = some u) := by
  simp only [State.readReady, if_neg hk, State.bothReady, State.destinationOk, State.unit_claimed,
    State.owner_claimed, Bool.and_eq_true, Bool.or_eq_true, Bool.not_eq_true', decide_eq_true_eq, and_assoc]
  cases (s.unit u).waw <;> cases s.owner d <;> simp [hk]

theorem State.readReady_claimed_store : (s.claimed .st u d).readReady .st u d = (s.unit u).ready1 := by
  simp [State.readReady, State.storeReady]

@[simp] theorem State.owner_haveRead (x : Reg) : (s.haveRead u n r).owner x = s.owner x := rfl

theorem State.unit_haveRead_same (hserv : s.Serving u n r) :
    (s.haveRead u n r).unit u = { s.unit u with remaining := s.cfg.delay.get u.kind - 1 } :=
  State.unit_put_same _ _ (State.idx_lt_of_slot hserv.1)

theorem State.unit_haveRead_ne {v : UnitId} (hv : v ≠ u) : (s.haveRead u n r).unit v = s.unit v :=
  State.unit_put_ne _ _ hv

/-- A read visit whose condition holds, the claim included. -/
theorem exec_readOperands_of_ready (a b : Reg) (imm : Addr) (hcycle : s.ReadCycle u n r)
    (hready : (s.claimed k u d).readReady k u d = true) :
    exec (.ofKind k d a b imm) s = .next ((s.claimed k u d).haveRead u n r) := by
  obtain ⟨hs, hserv, hread, hissue⟩ := hcycle
  rw [exec_readOperands_of_unread k d a b imm hs hserv hread, hissue, hready]
  rfl

/-- A read visit whose condition fails. -/
theorem exec_readOperands_of_unready (a b : Reg) (imm : Addr) (hs : s.station = .readOperands u)
    (hserv : s.Serving u n r) (hread : r.read = none)
    (hwait : before r.issue s.cc = false ∨ (s.claimed k u d).readReady k u d = false) :
    exec (.ofKind k d a b imm) s = .next (s.claimed k u d) := by
  have hand : (before r.issue s.cc && (s.claimed k u d).readReady k u d) = false := Bool.and_eq_false_iff.mpr hwait
  rw [exec_readOperands_of_unread k d a b imm hs hserv hread, hand]
  rfl

end Read

/-- Settles O26: whether the visit reads or waits, it makes the claim first and the read touches no entry and no flag. -/
theorem flaggedUnitClaimsAFreedEntry : Obligations.FlaggedUnitClaimsAFreedEntry := by
  intro s u n r k d a b imm hk hs hserv hread
  refine ⟨_, exec_readOperands_of_unread k d a b imm hs hserv hread, fun x => ?_, ?_⟩
  · rw [apply_ite (State.owner · x), State.owner_haveRead, ite_self, State.owner_claimed]
    simp [hk]
  · split
    · rw [State.unit_haveRead_same (State.serving_claimed k d hserv), State.unit_claimed]
    · rw [State.unit_claimed]

/-- Settles O27: the condition stands after the claim, so the visit reads. -/
theorem writerReadsWhenReady : Obligations.WriterReadsWhenReady := by
  intro s u n r k d a b imm hk hcycle h0 h1 hdest
  have hready := (State.readReady_claimed_writer hk).mpr ⟨h0, h1, hdest⟩
  have hserv := State.serving_claimed k d hcycle.2.1
  refine ⟨_, exec_readOperands_of_ready a b imm hcycle hready, ?_, ?_, fun v hv => ?_, ?_, ?_⟩
  · simp [State.haveRead]
  · simp [State.unit_haveRead_same hserv]
  · simp [State.unit_haveRead_ne hv]
  · simp [State.haveRead]
  · simp [State.haveRead]

/-- Settles O28: a store makes no claim and asks for its second source alone. -/
theorem storeReadsOnItsSecondSource : Obligations.StoreReadsOnItsSecondSource := by
  intro s u n r d a b imm hcycle h1
  have ⟨_, hserv, _, _⟩ := hcycle
  have hready : (s.claimed .st u d).readReady .st u d = true := State.readReady_claimed_store.trans h1
  exact ⟨_, exec_readOperands_of_ready a b imm hcycle hready, rfl, State.unit_haveRead_same hserv,
    fun v hv => State.unit_haveRead_ne hv, rfl, rfl, rfl⟩

/-- Settles O29: each of the failing cases keeps the read condition from holding, so that the claim is all that happens. -/
theorem unreadyInstructionWaits : Obligations.UnreadyInstructionWaits := by
  intro s u n r k d a b imm hs hserv hread hwait
  have hready : before r.issue s.cc = false ∨ (s.claimed k u d).readReady k u d = false := by
    by_cases hk : k = .st
    · subst hk
      rw [State.readReady_claimed_store]
      simpa using hwait
    · refine hwait.imp id fun hwait => ?_
      rw [← Bool.not_eq_true, State.readReady_claimed_writer hk]
      rintro ⟨h0, h1, hdest⟩
      obtain h1' | ⟨-, h0'⟩ | ⟨-, hw, v, hv, hne⟩ := hwait
      · rw [h1] at h1'; cases h1'
      · rw [h0] at h0'; cases h0'
      · simp [hw, hv, hne] at hdest
  exact ⟨_, exec_readOperands_of_unready a b imm hs hserv hread hready, State.claimed_queue .., State.claimed_pools ..,
    State.claimed_regs .., State.claimed_mem ..⟩

/-- Settles O30: the guard of each of the three visits. -/
theorem visitsBeforeTheirTimeChangeNothing : Obligations.VisitsBeforeTheirTimeChangeNothing := by
  intro s u n r k d a b imm hserv hguard
  obtain ⟨hs, hread⟩ | ⟨hs, hguard⟩ | ⟨hs, hguard⟩ := hguard
  · exact exec_readOperands_of_read k d a b imm hs hserv hread
  · refine exec_execute_of_guard_false k d a b imm hs hserv (Bool.and_eq_false_iff.mpr (hguard.imp id fun hzero => ?_))
    simp [hzero]
  · refine exec_writeBack_of_guard_false k d a b imm hs hserv (Bool.and_eq_false_iff.mpr (hguard.imp id fun hpos => ?_))
    simp [hpos]

end Sys2Proof.Machine
end

section
/-! The statements about the execute visit (44_execute.md R100 to R104, 47_arith.md, 48_loadstore.md). -/

namespace Sys2Proof.Machine

section Execute

variable {s : State} {u : UnitId} {n : Nat} {r : InstrRecord} {k : Kind} {d a b : Reg} {imm : Addr} {v : Word}

theorem State.executed_eq (hserv : s.Serving u n r) (v : Word) :
    s.executed u n v =
      if (s.unit u).remaining = 1 then s.completed u n r v else s.counted u n r v ((s.unit u).remaining - 1) := by
  unfold State.executed
  split
  · next hone =>
    have h := State.updateRecord_updateUnit_eq_put hserv
      (fun f => { f with result := some v, remaining := f.remaining - 1 }) fun r => { r with exec := some s.cc }
    simp only [hone] at h
    exact h
  · exact State.updateUnit_eq_put hserv _

/-- The execute cycle of an instruction that writes a register. -/
theorem exec_execute_writer (hk : k ≠ .st) (hcycle : s.ExecuteCycle u n r)
    (hv : s.Stages u (s.computed k a b imm) v) : exec (.ofKind k d a b imm) s = .next (s.executed u n v) := by
  have ⟨_, hserv, _, _⟩ := hcycle
  rw [exec_execute_of_stages k d a b imm hcycle hv, State.complete_writer k imm hk hserv, State.executed_eq hserv]
  split <;> rfl

/-- What a store stages (R102, R131): the value staged before, or its register as it stands now. -/
theorem State.stages_store : s.Stages u (s.computed .st a b imm) ((s.unit u).result.getD (s.reg b)) := by
  unfold State.Stages
  cases (s.unit u).result with
  | none => exact .inr ⟨rfl, rfl⟩
  | some v => exact .inl rfl

end Execute

/-- Settles O33: each of the four computes its own function of its two sources. -/
theorem arithmeticStagesItsFunction : Obligations.ArithmeticStagesItsFunction := by
  intro s u n r d a b imm hcycle hnone
  exact ⟨exec_execute_writer (k := .add) (by decide) hcycle (.inr ⟨hnone, rfl⟩),
    exec_execute_writer (k := .sub) (by decide) hcycle (.inr ⟨hnone, rfl⟩),
    exec_execute_writer (k := .mul) (by decide) hcycle (.inr ⟨hnone, rfl⟩),
    exec_execute_writer (k := .div) (by decide) hcycle (.inr ⟨hnone, rfl⟩)⟩

/-- Settles O34: inside memory the operand is the word at the immediate. -/
theorem loadStagesTheMemoryWord : Obligations.LoadStagesTheMemoryWord := by
  intro s u n r d a b imm hcycle hnone haddr
  exact exec_execute_writer (k := .ld) (by decide) hcycle (.inr ⟨hnone, State.memRead_of_lt haddr⟩)

/-- Settles O35: a staged result is what the unit stages, whatever it would compute. -/
theorem stagedResultIsKept : Obligations.StagedResultIsKept := fun _ _ _ _ _ _ _ _ _ _ hk hcycle hsome =>
  exec_execute_writer hk hcycle (.inl hsome)

/-- Settles O36: with the counter not at 1 the cycle only stages and counts. -/
theorem storeStagesItsRegister : Obligations.StoreStagesItsRegister := by
  intro s u n r d a b imm hcycle hmore
  have ⟨_, hserv, _, _⟩ := hcycle
  have hexec := exec_execute_of_stages .st d a b imm hcycle State.stages_store
  rw [if_neg hmore] at hexec
  rw [State.updateUnit_eq_put hserv]
  exact hexec

/-- The completion cycle of a store, as the completion of the value it stages. -/
theorem exec_store_completing {s : State} {u : UnitId} {n : Nat} {r : InstrRecord} (d a b : Reg) (imm : Addr)
    (hcycle : s.ExecuteCycle u n r) (hone : (s.unit u).remaining = 1) :
    exec (.st d a b imm) s =
      State.complete .st u imm (s.counted u n r ((s.unit u).result.getD (s.reg b)) 0) := by
  have hexec := exec_execute_of_stages .st d a b imm hcycle State.stages_store
  rwa [if_pos hone] at hexec

/-- Settles O37: without a colliding load the staged value goes to memory and the record is stamped. -/
theorem storeCompletesToMemory : Obligations.StoreCompletesToMemory := by
  intro s u n r d a b imm hwf hcycle hone hfree hu haddr
  have ⟨_, hserv, _, _⟩ := hcycle
  refine ⟨_, (exec_store_completing d a b imm hcycle hone).trans
    (State.complete_store_of_free imm hserv _ (State.collidingLoads_counted imm hserv hu .. ▸ hfree) haddr),
    Memory.read_write s.mem _ _ hwf, rfl, ?_, rfl, rfl⟩
  exact congrArg FunctionalUnit.remaining (State.unit_completed hserv _)

/-- Settles O38: with colliding loads the counter is bumped and nothing is written. -/
theorem earlierLoadHoldsAStoreBack : Obligations.EarlierLoadHoldsAStoreBack := by
  intro s u n r d a b imm hcycle hone hbump hu
  have ⟨_, hserv, _, _⟩ := hcycle
  have hcount : (s.counted u n r ((s.unit u).result.getD (s.reg b)) 0).collidingLoads imm r.issue =
      s.collidingLoads imm r.issue := State.collidingLoads_counted imm hserv hu ..
  have hexec := (exec_store_completing d a b imm hcycle hone).trans
    (State.complete_store_of_bump imm hserv _ (hcount.symm ▸ hbump))
  rw [hcount] at hexec
  exact ⟨_, hexec, congrArg FunctionalUnit.remaining (State.unit_counted hserv _ _), rfl, set_self_of_get hserv.2⟩

/-- Settles O39: the read of a load and the write of a store are the accesses that the memory size refuses. -/
theorem accessBeyondMemoryIsRefused : Obligations.AccessBeyondMemoryIsRefused := by
  intro s u n r d a b imm hcycle haddr
  have ⟨_, hserv, _, _⟩ := hcycle
  refine ⟨fun hnone => ?_, fun hone hfree hu => ?_⟩
  · have hread : s.computed .ld a b imm = .error .addressBeyondMemory := if_neg (Nat.not_lt.mpr haddr)
    exact exec_execute_of_refused .ld d a b imm hcycle hnone hread
  · exact (exec_store_completing d a b imm hcycle hone).trans
      (State.complete_store_of_beyond imm hserv _ (State.collidingLoads_counted imm hserv hu .. ▸ hfree) haddr)

end Sys2Proof.Machine
end

section
/-! The statements about the write-back and clear-busy visits (45_writeback.md R110 to R112, 46_clear_busy.md R115, R116). -/

namespace Sys2Proof.Machine

section Retired

variable {s : State} {u : UnitId} {n : Nat} {r : InstrRecord}

@[simp] theorem State.owner_retired (x : Reg) : (s.retired u n r).owner x = s.owner x := rfl

@[simp] theorem State.reg_retired (x : Reg) : (s.retired u n r).reg x = s.reg x := rfl

theorem State.unit_retired_same (hserv : s.Serving u n r) : (s.retired u n r).unit u = FunctionalUnit.idle :=
  State.unit_put_same _ _ (by exact State.idx_lt_of_slot hserv.1)

theorem State.unit_retired_ne {v : UnitId} (hv : v ≠ u) : (s.retired u n r).unit v = s.unit v :=
  (State.unit_put_ne _ _ hv).trans (s.unit_enter _ v)

end Retired

/-- Settles O40: the commit delivers the staged result and retires the instruction. -/
theorem writeBackCommitsToTheRegister : Obligations.WriteBackCommitsToTheRegister := by
  intro s u n r k d a b imm v hk hcycle hv
  have ⟨_, hserv, _, _⟩ := hcycle
  refine ⟨_, (exec_writeBack_of_cycle k d a b imm hcycle).trans (State.commit_of_result k d hserv (.inr hv)),
    fun x => ?regs, ?queue, fun x => ?owners, ?unit, fun w hw => ?others, ?trace, ?mem, ?pc, ?halt⟩
  case regs => simp [State.reg_delivered, hk]
  case queue => simp [State.retired]
  case owners => simp [State.owner_delivered, hk]
  case unit => exact State.unit_retired_same (State.serving_delivered k d hserv v)
  case others => simp [State.unit_retired_ne hw]
  case trace => simp [State.retired]
  case mem => simp [State.retired]
  case pc => simp [State.retired]
  case halt => simp [State.retired]

/-- Settles O41: a store delivers nothing and is retired. -/
theorem storeWriteBackWritesNoRegister : Obligations.StoreWriteBackWritesNoRegister := by
  intro s u n r d a b imm hcycle
  have ⟨_, hserv, _, _⟩ := hcycle
  exact ⟨s.retired u n r, (exec_writeBack_of_cycle .st d a b imm hcycle).trans (State.commit_store d hserv),
    rfl, rfl, rfl, rfl, State.unit_retired_same hserv, fun w hw => State.unit_retired_ne hw, rfl⟩

/-- The unit after the readiness refresh (R115). -/
def FunctionalUnit.refreshed (f : FunctionalUnit) (owner0 owner1 : Option UnitId) : FunctionalUnit :=
  { f with
    ready0 := f.ready0 || owner0.isNone, q0 := if owner0.isNone then none else f.q0
    ready1 := f.ready1 || owner1.isNone, q1 := if owner1.isNone then none else f.q1 }

theorem State.refreshReadiness_eq (s : State) (u : UnitId) (a b : Reg) :
    s.refreshReadiness u a b = s.updateUnit u fun f => f.refreshed (s.owner a) (s.owner b) := rfl

/-- Settles O42: the refresh is a change of the visited unit's readiness alone. -/
theorem clearBusyRaisesReadiness : Obligations.ClearBusyRaisesReadiness := by
  intro s u k d a b imm hs hu
  refine ⟨s.refreshReadiness u a b, exec_clearBusy k d a b imm hs, ?_, fun v hv => ?_, rfl⟩
  · rw [State.refreshReadiness_eq, State.unit_updateUnit_same _ hu]
    simp only [FunctionalUnit.refreshed]
    cases s.owner a <;> cases s.owner b <;> simp
  · exact State.unit_updateUnit_ne s _ hv.symm

end Sys2Proof.Machine
end

section
/-! What a visit can do: for each of the four unit phases an inductive relation with one constructor per outcome, to which
`exec` and `State.serve` are tied, and from which everything about a step is derived. -/

namespace Sys2Proof.Machine

section Visits

variable (s : State) (k : Kind) (u : UnitId) (n : Nat) (r : InstrRecord)

/-- The read-operands visit (R90 to R92). -/
inductive State.ReadVisit (d : Reg) : State → Prop
  | skip (hread : r.read.isSome) : State.ReadVisit d s
  | wait (hread : r.read = none) : State.ReadVisit d (s.claimed k u d)
  | read (hread : r.read = none) (hissue : before r.issue s.cc = true)
      (hready : (s.claimed k u d).readReady k u d = true) : State.ReadVisit d ((s.claimed k u d).haveRead u n r)

/-- The execute visit (R100 to R104). A store goes on counting when it is bumped, and writes memory when it completes. -/
inductive State.ExecuteVisit (a b : Reg) (imm : Addr) : State → Prop
  | skip (hguard : (before r.read s.cc && decide (0 < (s.unit u).remaining)) = false) : State.ExecuteVisit a b imm s
  | count (v : Word) (m : Nat) (hread : before r.read s.cc = true) (hpos : 0 < (s.unit u).remaining)
      (hv : s.Stages u (s.computed k a b imm) v) (hm : 0 < m) (hwriter : k ≠ .st → m + 1 = (s.unit u).remaining)
      (hstore : (s.unit u).remaining ≤ m + 1) : State.ExecuteVisit a b imm (s.counted u n r v m)
  | complete (v : Word) (mem : Memory) (hread : before r.read s.cc = true) (hone : (s.unit u).remaining = 1)
      (hv : s.Stages u (s.computed k a b imm) v) (hwriter : k ≠ .st → mem = s.mem)
      (hstore : k = .st → mem = s.mem.write (effectiveAddress imm) v ∧ effectiveAddress imm < s.cfg.memWords ∧
        (u.kind = .st → s.collidingLoads imm r.issue = 0)) :
      State.ExecuteVisit a b imm ((s.setMem mem).completed u n r v)

/-- The write-back visit (R110 to R112). -/
inductive State.WriteVisit (d : Reg) : State → Prop
  | skip (hguard : (before r.exec s.cc && decide ((s.unit u).remaining = 0)) = false) : State.WriteVisit d s
  | retire (v : Word) (hexec : before r.exec s.cc = true) (hzero : (s.unit u).remaining = 0)
      (hv : k = .st ∨ (s.unit u).result = some v) : State.WriteVisit d ((s.delivered k u d v).retired u n r)

/-- A visit of one of the four phases, of an instruction with operands `d`, `a`, `b`, `imm`. -/
inductive State.Visit (d a b : Reg) (imm : Addr) (t : State) : Prop
  | read (h : s.ReadVisit k u n r d t)
  | execute (h : s.ExecuteVisit k u n r a b imm t)
  | write (h : s.WriteVisit k u n r d t)
  | clear (h : t = s.refreshReadiness u a b)

end Visits

section Exec

variable {s t : State} {k : Kind} {u : UnitId} {n : Nat} {r : InstrRecord} {d a b : Reg} {imm : Addr}

theorem exec_readOperands_next (hs : s.station = .readOperands u) (hserv : s.Serving u n r)
    (h : exec (.ofKind k d a b imm) s = .next t) : s.ReadVisit k u n r d t := by
  cases hread : r.read with
  | some c =>
    have hsome : r.read.isSome := by rw [hread]; rfl
    rw [exec_readOperands_of_read k d a b imm hs hserv hsome] at h
    cases h
    exact .skip hsome
  | none =>
    rw [exec_readOperands_of_unread k d a b imm hs hserv hread] at h
    split at h
    · next hc =>
      rw [Bool.and_eq_true] at hc
      cases h
      exact .read hread hc.1 hc.2
    · cases h
      exact .wait hread

/-- A value that is staged, unless it is refused. -/
theorem State.exists_stages (s : State) (u : UnitId) (value : Except Refusal Word) :
    (∃ v, s.Stages u value v) ∨ (s.unit u).result = none ∧ ∃ e, value = .error e := by
  cases hres : (s.unit u).result with
  | some v => exact .inl ⟨v, .inl hres⟩
  | none =>
    cases value with
    | ok v => exact .inl ⟨v, .inr ⟨hres, rfl⟩⟩
    | error e => exact .inr ⟨rfl, e, rfl⟩

theorem State.complete_next (hserv : s.Serving u n r) {v : Word} (hread : before r.read s.cc = true)
    (hone : (s.unit u).remaining = 1) (hv : s.Stages u (s.computed k a b imm) v)
    (h : State.complete k u imm (s.counted u n r v 0) = .next t) : s.ExecuteVisit k u n r a b imm t := by
  by_cases hk : k = .st
  · subst hk
    by_cases hfree : (s.counted u n r v 0).collidingLoads imm r.issue = 0
    · by_cases haddr : effectiveAddress imm < s.cfg.memWords
      · rw [State.complete_store_of_free imm hserv v hfree haddr] at h
        cases h
        refine .complete v _ hread hone hv (fun hk => absurd rfl hk) fun _ => ⟨rfl, haddr, fun hu => ?_⟩
        rw [← State.collidingLoads_counted imm hserv hu v 0, hfree]
      · rw [State.complete_store_of_beyond imm hserv v hfree (Nat.le_of_not_lt haddr)] at h
        cases h
    · have hbump := Nat.pos_of_ne_zero hfree
      rw [State.complete_store_of_bump imm hserv v hbump] at h
      cases h
      exact .count v _ hread (by omega) hv hbump (fun hk => absurd rfl hk) (by omega)
  · rw [State.complete_writer k imm hk hserv] at h
    cases h
    exact .complete v s.mem hread hone hv (fun _ => rfl) fun hst => absurd hst hk

theorem exec_execute_next (hs : s.station = .execute u) (hserv : s.Serving u n r)
    (h : exec (.ofKind k d a b imm) s = .next t) : s.ExecuteVisit k u n r a b imm t := by
  by_cases hguard : before r.read s.cc = true ∧ 0 < (s.unit u).remaining
  · obtain ⟨hread, hpos⟩ := hguard
    have hcycle : s.ExecuteCycle u n r := ⟨hs, hserv, hread, hpos⟩
    obtain ⟨v, hv⟩ | ⟨hnone, e, he⟩ := s.exists_stages u (s.computed k a b imm)
    · rw [exec_execute_of_stages k d a b imm hcycle hv] at h
      split at h
      · next hone => exact State.complete_next hserv hread hone hv h
      · next hmore =>
        cases h
        exact .count v _ hread hpos hv (by omega) (fun _ => by omega) (by omega)
    · rw [exec_execute_of_refused k d a b imm hcycle hnone he] at h
      cases h
  · have hfalse : (before r.read s.cc && decide (0 < (s.unit u).remaining)) = false := by
      rw [← Bool.not_eq_true, Bool.and_eq_true, decide_eq_true_eq]
      exact hguard
    rw [exec_execute_of_guard_false k d a b imm hs hserv hfalse] at h
    cases h
    exact .skip hfalse

theorem exec_writeBack_next (hs : s.station = .writeBack u) (hserv : s.Serving u n r)
    (h : exec (.ofKind k d a b imm) s = .next t) : s.WriteVisit k u n r d t := by
  by_cases hguard : before r.exec s.cc = true ∧ (s.unit u).remaining = 0
  · obtain ⟨hexec, hzero⟩ := hguard
    rw [exec_writeBack_of_cycle k d a b imm ⟨hs, hserv, hexec, hzero⟩] at h
    have retired (v : Word) (hv : k = .st ∨ (s.unit u).result = some v) : s.WriteVisit k u n r d t := by
      rw [State.commit_of_result k d hserv hv] at h
      cases h
      exact .retire v hexec hzero hv
    cases hres : (s.unit u).result with
    | some v => exact retired v (.inr hres)
    | none =>
      by_cases hk : k = .st
      · exact retired 0 (.inl hk)
      · rw [State.commit_of_no_result k d hk hres] at h
        cases h
  · have hfalse : (before r.exec s.cc && decide ((s.unit u).remaining = 0)) = false := by
      rw [← Bool.not_eq_true, Bool.and_eq_true, decide_eq_true_eq]
      exact hguard
    rw [exec_writeBack_of_guard_false k d a b imm hs hserv hfalse] at h
    cases h
    exact .skip hfalse

/-- A visit that reads its record answers only when there is one. -/
theorem State.exists_serving_of_exec (hs : s.station = .readOperands u ∨ s.station = .execute u ∨ s.station = .writeBack u)
    (h : exec (.ofKind k d a b imm) s = .next t) : ∃ n r, s.Serving u n r := by
  have hinst : ∃ r, s.inst u = some r := by
    obtain hs | hs | hs := hs
    · rw [exec_readOperands k d a b imm hs] at h
      obtain ⟨r, hr, -⟩ := State.readStage_next h
      exact ⟨r, hr⟩
    · rw [exec_execute k d a b imm hs] at h
      obtain ⟨r, hr, -⟩ := State.executeStage_next h
      exact ⟨r, hr⟩
    · rw [exec_writeBack k d a b imm hs] at h
      obtain ⟨r, hr, -⟩ := State.writeBackStage_next h
      exact ⟨r, hr⟩
  obtain ⟨r, hr⟩ := hinst
  obtain ⟨n, hserv⟩ := State.inst_eq_some hr
  exact ⟨n, r, hserv⟩

end Exec

/-! The phases, by their visits. -/

/-- Unit `u` is busy with record `r` of slot `n`, of kind `k`. -/
structure State.Busy (s : State) (k : Kind) (u : UnitId) (n : Nat) (r : InstrRecord) : Prop where
  busy : (s.unit u).busy = true
  serving : s.Serving u n r
  kind : s.cfg.opcodes.kindOf r.opcode = some k

/-- What the visit of a busy unit answers, if at all: `exec` of its record's instruction. -/
theorem State.serve_busy_next {st : UnitId → Station} {u : UnitId} {s t : State} (h : s.serve st u = .next t) :
    ((s.unit u).busy = false ∧ t = s) ∨
      ∃ k n r, s.Busy k u n r ∧ exec (.ofKind k r.dst r.src0 r.src1 r.imm) (s.at (st u)) = .next t := by
  obtain hidle | ⟨hbusy, r, i, hinst, hinstr, hexec⟩ := State.serve_next h
  · exact .inl hidle
  · obtain ⟨n, hserv⟩ := State.inst_eq_some hinst
    obtain ⟨k, hk, rfl⟩ := Option.map_eq_some_iff.mp hinstr
    exact .inr ⟨k, n, r, ⟨hbusy, hserv, hk⟩, hexec⟩

/-- The visit that phase `st` makes of a busy unit, from the state `s` that stands there. -/
abbrev PhaseVisit := State → Kind → UnitId → Nat → InstrRecord → State → Prop

/-- Every visit that phase `st` makes is one of `V`. -/
def Makes (st : UnitId → Station) (V : PhaseVisit) : Prop :=
  ∀ (s t : State) u k n r, s.Busy k u n r → exec (.ofKind k r.dst r.src0 r.src1 r.imm) (s.at (st u)) = .next t →
    V (s.at (st u)) k u n r t

theorem makes_readOperands : Makes .readOperands fun s k u n r t => s.ReadVisit k u n r r.dst t :=
  fun _ _ _ _ _ _ hb h => exec_readOperands_next rfl hb.serving h

theorem makes_execute : Makes .execute fun s k u n r t => s.ExecuteVisit k u n r r.src0 r.src1 r.imm t :=
  fun _ _ _ _ _ _ hb h => exec_execute_next rfl hb.serving h

theorem makes_writeBack : Makes .writeBack fun s k u n r t => s.WriteVisit k u n r r.dst t :=
  fun _ _ _ _ _ _ hb h => exec_writeBack_next rfl hb.serving h

theorem makes_clearBusy : Makes .clearBusy fun s _ u _ r t => t = s.refreshReadiness u r.src0 r.src1 := by
  intro s t u k n r _ h
  rw [exec_clearBusy k r.dst r.src0 r.src1 r.imm rfl] at h
  cases h
  rfl

/-- A property of states that does not see the place in the tick. -/
def Placeless (P : State → Prop) : Prop := ∀ s st, P s → P (s.at st)

/-- A property that every visit of a phase keeps is kept by the phase. -/
theorem State.unitPhase_keeps_prop {st : UnitId → Station} {V : PhaseVisit} (hst : Makes st V) {P : State → Prop}
    (hat : Placeless P) (visit : ∀ (s t : State) u k n r, P s → s.Busy k u n r → V s k u n r t → P t) {s t : State}
    (h : State.unitPhase st s = .next t) (hs : P s) : P t := by
  refine State.serveAll_keeps (fun u s t hserve hp => ?_) s.unitIds s t h hs
  obtain ⟨-, rfl⟩ | ⟨k, n, r, hb, hexec⟩ := State.serve_busy_next hserve
  · exact hp
  · have hb' : (s.at (st u)).Busy k u n r := ⟨hb.busy, hb.serving, hb.kind⟩
    exact visit _ t u k n r (hat s _ hp) hb' (hst s t u k n r hb hexec)

/-- A property that every visit keeps, whatever the phase. -/
def KeptByVisits (P : State → Prop) : Prop :=
  ∀ (s t : State) u k n r, P s → s.Busy k u n r → s.Visit k u n r r.dst r.src0 r.src1 r.imm t → P t

/-- The four phases of a tick that visit units (R60). -/
def State.unitPhases (s : State) : Result :=
  andThen (State.unitPhase .readOperands s) fun r =>
  andThen (State.unitPhase .execute r) fun e =>
  andThen (State.unitPhase .writeBack e) fun w =>
  State.unitPhase .clearBusy w

theorem State.unitPhases_next {s b : State} (h : s.unitPhases = .next b) :
    ∃ r e w, State.unitPhase .readOperands s = .next r ∧ State.unitPhase .execute r = .next e ∧
      State.unitPhase .writeBack e = .next w ∧ State.unitPhase .clearBusy w = .next b := by
  obtain ⟨r, hr, h⟩ := andThen_next h
  obtain ⟨e, he, h⟩ := andThen_next h
  obtain ⟨w, hw, hb⟩ := andThen_next h
  exact ⟨r, e, w, hr, he, hw, hb⟩

/-- A property that every visit keeps is kept by the four phases. -/
theorem State.unitPhases_keep {P : State → Prop} (hat : Placeless P) (hvisit : KeptByVisits P) {s b : State}
    (h : s.unitPhases = .next b) (hs : P s) : P b := by
  obtain ⟨r, e, w, hr, he, hw, hb⟩ := State.unitPhases_next h
  have hPr := State.unitPhase_keeps_prop makes_readOperands hat
    (fun s t u k n r hp hb hv => hvisit s t u k n r hp hb (.read hv)) hr hs
  have hPe := State.unitPhase_keeps_prop makes_execute hat
    (fun s t u k n r hp hb hv => hvisit s t u k n r hp hb (.execute hv)) he hPr
  have hPw := State.unitPhase_keeps_prop makes_writeBack hat
    (fun s t u k n r hp hb hv => hvisit s t u k n r hp hb (.write hv)) hw hPe
  exact State.unitPhase_keeps_prop makes_clearBusy hat
    (fun s t u k n r hp hb hv => hvisit s t u k n r hp hb (.clear hv)) hb hPw

theorem State.afterFetch_eq_unitPhases (s : State) :
    s.afterFetch = andThen s.issuePhase fun i => andThen i.unitPhases fun b => .next b.endTick := by
  simp only [State.afterFetch, State.unitPhases, andThen_assoc]

/-- What follows the fetch phase: an issue or none, the visits, and the end of the tick. -/
theorem State.afterFetch_next {f t : State} (h : f.afterFetch = .next t) :
    ∃ i b, (i = f ∨ ∃ n r u, f.Issues u n r i) ∧ i.unitPhases = .next b ∧ t = b.endTick := by
  rw [State.afterFetch_eq_unitPhases] at h
  obtain ⟨i, hi, h⟩ := andThen_next h
  obtain ⟨b, hb, h⟩ := andThen_next h
  cases h
  exact ⟨i, b, (State.issuePhase_next hi).imp And.left id, hb, rfl⟩

/-- What the fetch phase does (R70 to R76). -/
inductive State.Fetches (s : State) : State → Prop
  | halted (h : s.haltReached = true) : State.Fetches s s
  | meetsHalt (h : s.haltReached = false) (hw : s.mem.read s.pc = s.cfg.opcodes.haltWord) :
      State.Fetches s { s with haltReached := true, station := .fetch }
  | queues (st : Station) (h : s.haltReached = false) (hpc : s.pc < s.cfg.memWords)
      (hw : s.mem.read s.pc ≠ s.cfg.opcodes.haltWord) :
      State.Fetches s ((s.at st).fetchWord (s.mem.read s.pc))

theorem State.fetches_of_fetchPhase {s t : State} (h : s.fetchPhase = .next t) : s.Fetches t := by
  obtain ⟨hhalt, rfl⟩ | ⟨hhalt, hpc, ⟨i, hdec, hexec⟩ | ⟨e, hdec, rfl⟩⟩ := State.fetchPhase_next h
  · exact .halted hhalt
  · have hword := encodeWith_of_decodeWith hdec
    obtain ⟨hw, rfl⟩ | ⟨hw, k, -, rfl⟩ := decodeWith_ok hdec
    · cases hexec
      exact .meetsHalt hhalt hw
    · rw [exec_fetch rfl, State.at_cfg, hword] at hexec
      cases hexec
      exact .queues .fetch hhalt hpc hw
  · refine .queues s.station hhalt hpc ((exists_error_iff _ _).mp ⟨e, hdec⟩).1

/-- A tick by its parts (R60). -/
theorem State.tick_parts {s t : State} (h : s.tick = .next t) :
    ∃ f i b, s.Fetches f ∧ (i = f ∨ ∃ n r u, f.Issues u n r i) ∧ i.unitPhases = .next b ∧ t = b.endTick := by
  obtain ⟨f, hf, h⟩ := andThen_next h
  obtain ⟨i, b, hi, hb, rfl⟩ := State.afterFetch_next h
  exact ⟨f, i, b, State.fetches_of_fetchPhase hf, hi, hb, rfl⟩

/-- A step (R29): with `done` nothing, else a tick by its parts. -/
theorem step_parts {s t : State} (h : step s = .next t) :
    (s.done = true ∧ t = s) ∨
      (s.done = false ∧ ∃ f i b, s.Fetches f ∧ (i = f ∨ ∃ n r u, f.Issues u n r i) ∧ i.unitPhases = .next b ∧
        t = b.endTick) := by
  obtain ⟨-, -, hdone | ⟨hdone, htick⟩⟩ := step_next h
  · exact .inl hdone
  · exact .inr ⟨hdone, State.tick_parts htick⟩

end Sys2Proof.Machine
end

section
/-! What a step leaves unchanged: the configuration and the sizes of the pools always, and after the fetch phase the cursor,
the halt flag and the words of the queue as well. -/

namespace Sys2Proof.Machine

/-- A record without what the stages write: its word, its fields and its program index (R19). -/
def InstrRecord.fetched (r : InstrRecord) : InstrRecord :=
  { r with issue := none, read := none, exec := none, write := none, unit := none }

/-- What no part of a tick before its end changes (R21, R26, R61). -/
structure State.SameRun (s t : State) : Prop where
  cfg : t.cfg = s.cfg
  cc : t.cc = s.cc
  unitTrace : t.unitTrace = s.unitTrace
  length : ∀ k, (t.pools.get k).length = (s.pools.get k).length

/-- What no part of a tick between its fetch phase and its end changes. -/
structure State.SameFetch (s t : State) : Prop extends State.SameRun s t where
  pc : t.pc = s.pc
  haltReached : t.haltReached = s.haltReached
  words : t.queue.map InstrRecord.fetched = s.queue.map InstrRecord.fetched

theorem State.SameRun.trans {s t v : State} (h : s.SameRun t) (h' : t.SameRun v) : s.SameRun v :=
  ⟨h'.cfg.trans h.cfg, h'.cc.trans h.cc, h'.unitTrace.trans h.unitTrace, fun k => (h'.length k).trans (h.length k)⟩

theorem State.SameFetch.refl (s : State) : s.SameFetch s := ⟨⟨rfl, rfl, rfl, fun _ => rfl⟩, rfl, rfl, rfl⟩

theorem State.SameFetch.trans {s t v : State} (h : s.SameFetch t) (h' : t.SameFetch v) : s.SameFetch v :=
  ⟨h.toSameRun.trans h'.toSameRun, h'.pc.trans h.pc, h'.haltReached.trans h.haltReached, h'.words.trans h.words⟩

section Parts

variable {s t : State} {k : Kind} {u : UnitId} {n : Nat} {r : InstrRecord} {d a b : Reg} {imm : Addr}

/-- A record replaced by one with the same word and program index. -/
theorem map_fetched_set {q : List InstrRecord} {n : Nat} {r x : InstrRecord} (hrec : q[n]? = some r)
    (hx : x.fetched = r.fetched) : (q.set n x).map InstrRecord.fetched = q.map InstrRecord.fetched := by
  have hget : (q.map InstrRecord.fetched)[n]? = some r.fetched := by rw [List.getElem?_map, hrec]; rfl
  rw [List.map_set, hx, set_self_of_get hget]

/-- A change of a unit and of the stamps of its record. -/
theorem State.sameFetch_put {f : FunctionalUnit} {x : InstrRecord} (hrec : s.queue[n]? = some r)
    (hx : x.fetched = r.fetched) : s.SameFetch (s.put u n f x) := by
  exact ⟨⟨rfl, rfl, rfl, State.length_put s u n f x⟩, rfl, rfl, map_fetched_set hrec hx⟩

theorem State.sameFetch_claimed : s.SameFetch (s.claimed k u d) := by
  rw [State.claimed_frame]
  exact ⟨⟨rfl, rfl, rfl, fun _ => rfl⟩, rfl, rfl, rfl⟩

theorem State.sameFetch_delivered (v : Word) : s.SameFetch (s.delivered k u d v) := by
  rw [State.delivered_frame]
  exact ⟨⟨rfl, rfl, rfl, fun _ => rfl⟩, rfl, rfl, rfl⟩

theorem State.sameFetch_retired (hrec : s.queue[n]? = some r) : s.SameFetch (s.retired u n r) := by
  have henter : s.SameFetch (s.enter ({ r with write := some s.cc }.traceRecord s.cfg.opcodes)) :=
    ⟨⟨rfl, rfl, rfl, fun _ => rfl⟩, rfl, rfl, rfl⟩
  exact henter.trans (State.sameFetch_put hrec rfl)

theorem State.sameFetch_updateUnit (f : FunctionalUnit → FunctionalUnit) : s.SameFetch (s.updateUnit u f) :=
  ⟨⟨rfl, rfl, rfl, State.length_updateUnit s u f⟩, rfl, rfl, rfl⟩

theorem State.ReadVisit.sameFetch (hserv : s.Serving u n r) (h : s.ReadVisit k u n r d t) : s.SameFetch t := by
  have ⟨_, hrec⟩ := State.serving_claimed k d hserv
  cases h with
  | skip => exact .refl s
  | wait => exact State.sameFetch_claimed
  | read => exact State.sameFetch_claimed.trans (State.sameFetch_put hrec rfl)

theorem State.ExecuteVisit.sameFetch (hserv : s.Serving u n r) (h : s.ExecuteVisit k u n r a b imm t) :
    s.SameFetch t := by
  have ⟨_, hrec⟩ := hserv
  cases h with
  | skip => exact .refl s
  | count => exact State.sameFetch_put hrec rfl
  | complete v mem =>
    have hmem : s.SameFetch (s.setMem mem) := ⟨⟨rfl, rfl, rfl, fun _ => rfl⟩, rfl, rfl, rfl⟩
    exact hmem.trans (State.sameFetch_put hrec rfl)

theorem State.WriteVisit.sameFetch (hserv : s.Serving u n r) (h : s.WriteVisit k u n r d t) : s.SameFetch t := by
  cases h with
  | skip => exact .refl s
  | retire v =>
    have ⟨_, hrec⟩ := State.serving_delivered k d hserv v
    exact (State.sameFetch_delivered v).trans (State.sameFetch_retired hrec)

theorem State.Visit.sameFetch (hserv : s.Serving u n r) (h : s.Visit k u n r d a b imm t) : s.SameFetch t := by
  cases h with
  | read h => exact h.sameFetch hserv
  | execute h => exact h.sameFetch hserv
  | write h => exact h.sameFetch hserv
  | clear h => exact h ▸ State.sameFetch_updateUnit _

theorem State.length_issued (s : State) (k : Kind) (u : UnitId) (n : Nat) (d a b : Reg) (k' : Kind) :
    ((s.issued k u n d a b).pools.get k').length = (s.pools.get k').length := by
  rw [State.issued, State.claimFree_pools, State.placed, State.updateRecord_pools]
  exact State.length_updateUnit ..

theorem State.sameFetch_issued (hrec : s.queue[n]? = some r) (d a b : Reg) : s.SameFetch (s.issued k u n d a b) := by
  rw [State.issued_frame, State.issued_queue d a b k hrec]
  exact ⟨⟨rfl, rfl, rfl, fun k' => s.length_issued k u n d a b k'⟩, rfl, rfl, map_fetched_set hrec rfl⟩

theorem State.Issues.sameFetch (h : s.Issues u n r t) : s.SameFetch t := by
  obtain ⟨hrec, -, -, -, -, rfl⟩ := h
  have hat : s.SameFetch (s.at (.issue u n)) := ⟨⟨rfl, rfl, rfl, fun _ => rfl⟩, rfl, rfl, rfl⟩
  exact hat.trans (State.sameFetch_issued (s := s.at (.issue u n)) hrec _ _ _)

end Parts

section Phases

variable {s f i b t : State}

/-- A phase of visits fetches nothing. -/
theorem State.sameFetch_of_phase {st : UnitId → Station} {V : PhaseVisit} (hst : Makes st V)
    (hV : ∀ {s t : State} {k u n r}, V s k u n r t → s.Visit k u n r r.dst r.src0 r.src1 r.imm t)
    (h : State.unitPhase st s = .next t) : s.SameFetch t :=
  State.unitPhase_keeps_prop hst (P := s.SameFetch)
    (fun _ _ hp => ⟨⟨hp.cfg, hp.cc, hp.unitTrace, hp.length⟩, hp.pc, hp.haltReached, hp.words⟩)
    (fun _ _ _ _ _ _ hp hb hv => hp.trans ((hV hv).sameFetch hb.serving)) h (.refl s)

theorem State.sameFetch_of_unitPhases (h : i.unitPhases = .next b) : i.SameFetch b := by
  refine State.unitPhases_keep (P := i.SameFetch) (fun s st hs => ?_) (fun s t u k n r hs hb hv => ?_) h (.refl i)
  · exact ⟨⟨hs.cfg, hs.cc, hs.unitTrace, hs.length⟩, hs.pc, hs.haltReached, hs.words⟩
  · exact hs.trans (hv.sameFetch hb.serving)

theorem State.sameFetch_of_issue (h : i = f ∨ ∃ n r u, f.Issues u n r i) : f.SameFetch i := by
  obtain rfl | ⟨n, r, u, h⟩ := h
  · exact .refl i
  · exact h.sameFetch

theorem State.length_compact (s : State) (k : Kind) : (s.compact.pools.get k).length = (s.pools.get k).length := by
  simp

theorem State.sameRun_fetchWord (w : Word) : s.SameRun (s.fetchWord w) := by
  refine ⟨s.fetchWord_cfg w, s.fetchWord_cc w, s.fetchWord_unitTrace w, fun k => ?_⟩
  obtain ⟨-, h⟩ | ⟨-, h⟩ := s.fetchWord_cases w
  · rw [h]; exact s.length_compact k
  · rw [h]; exact s.length_compact k

theorem State.Fetches.sameRun (h : s.Fetches f) : s.SameRun f := by
  cases h with
  | halted => exact ⟨rfl, rfl, rfl, fun _ => rfl⟩
  | meetsHalt => exact ⟨rfl, rfl, rfl, fun _ => rfl⟩
  | queues st =>
    have hat : s.SameRun (s.at st) := ⟨rfl, rfl, rfl, fun _ => rfl⟩
    exact hat.trans (State.sameRun_fetchWord _)

end Phases

/-- Settles O16: no part of a tick touches the configuration, and units are changed in place. -/
theorem configurationIsConstant : Obligations.ConfigurationIsConstant := by
  intro s t h
  obtain ⟨-, rfl⟩ | ⟨-, f, i, b, hf, hi, hb, rfl⟩ := step_parts h
  · exact ⟨rfl, fun _ => rfl⟩
  · have hsame : s.SameRun b :=
      hf.sameRun.trans ((State.sameFetch_of_issue hi).trans (State.sameFetch_of_unitPhases hb)).toSameRun
    rw [State.endTick_cfg, State.endTick_pools]
    exact ⟨hsame.cfg, hsame.length⟩

/-- The words and program indexes of a queue, from its records as fetched. -/
theorem map_word_of_map_fetched {q q' : List InstrRecord}
    (h : q'.map InstrRecord.fetched = q.map InstrRecord.fetched) :
    (q'.map fun r => (r.word, r.pidx)) = q.map fun r => (r.word, r.pidx) := by
  have hmap (l : List InstrRecord) :
      (l.map fun r => (r.word, r.pidx)) = (l.map InstrRecord.fetched).map fun r => (r.word, r.pidx) := by
    rw [List.map_map]
    rfl
  rw [hmap q', hmap q, h]

/-- What the fetch phase does to the cursor and the words of the queue. -/
theorem State.Fetches.word_enters {s f : State} (h : s.Fetches f) :
    (f.pc = s.pc ∧ (f.queue.map fun r => (r.word, r.pidx)).Sublist (s.queue.map fun r => (r.word, r.pidx))) ∨
      (f.pc = s.pc + 1 ∧ s.haltReached = false ∧ s.mem.read s.pc ≠ s.cfg.opcodes.haltWord ∧
        (f.queue.map fun r => (r.word, r.pidx)) =
          ((s.queue.filter fun r => r.write.isNone).map fun r => (r.word, r.pidx)) ++ [(s.mem.read s.pc, s.pc)]) := by
  cases h with
  | halted => exact .inl ⟨rfl, List.Sublist.refl _⟩
  | meetsHalt => exact .inl ⟨rfl, List.Sublist.refl _⟩
  | queues st hhalt hpc hw =>
    obtain ⟨-, hfetch⟩ | ⟨-, hfetch⟩ := (s.at st).fetchWord_cases (s.mem.read s.pc)
    · refine .inr ⟨by rw [hfetch]; rfl, hhalt, hw, ?_⟩
      rw [hfetch]
      exact List.map_append
    · refine .inl ⟨by rw [hfetch]; rfl, ?_⟩
      rw [hfetch]
      exact List.filter_sublist.map _

/-- Settles O18: the fetch phase lets a word in or does not, and the other phases keep words and cursor. -/
theorem oneWordEntersPerTick : Obligations.OneWordEntersPerTick := by
  intro s t h
  obtain ⟨-, rfl⟩ | ⟨-, f, i, b, hf, hi, hb, rfl⟩ := step_parts h
  · exact .inl ⟨rfl, List.Sublist.refl _⟩
  · have hsame := (State.sameFetch_of_issue hi).trans (State.sameFetch_of_unitPhases hb)
    rw [State.endTick_pc, State.endTick_queue, hsame.pc, map_word_of_map_fetched hsame.words]
    exact hf.word_enters

/-- Settles O22: with the flag set there is no fetch, and meeting the halt word only sets the flag. -/
theorem nothingIsFetchedFromHaltOn : Obligations.NothingIsFetchedFromHaltOn := by
  intro s t hhalt h
  obtain ⟨hdone, rfl⟩ | ⟨-, f, i, b, hf, hi, hb, rfl⟩ := step_parts h
  · exact ⟨((State.done_iff _).mp hdone).1, rfl, rfl⟩
  · have hsame := (State.sameFetch_of_issue hi).trans (State.sameFetch_of_unitPhases hb)
    have hfetch : f.haltReached = true ∧ f.pc = s.pc ∧ f.queue = s.queue := by
      cases hf with
      | halted hset => exact ⟨hset, rfl, rfl⟩
      | meetsHalt => exact ⟨rfl, rfl, rfl⟩
      | queues st hclear hpc hw =>
        obtain hset | hmet := hhalt
        · rw [hclear] at hset; cases hset
        · exact absurd hmet hw
    obtain ⟨hset, hpc, hqueue⟩ := hfetch
    have hpidx := congrArg (List.map Prod.snd) (map_word_of_map_fetched hsame.words)
    rw [List.map_map, List.map_map, hqueue] at hpidx
    rw [State.endTick_haltReached, State.endTick_pc, State.endTick_queue]
    exact ⟨hsame.haltReached.trans hset, hsame.pc.trans hpc, hpidx⟩

/-- Settles O55: the unit trace is written at the end of the tick only, from the state that the tick leaves. -/
theorem unitTraceSamplesBusyTicks : Obligations.UnitTraceSamplesBusyTicks := by
  intro s t hdone h
  obtain ⟨hdone', -⟩ | ⟨-, f, i, b, hf, hi, hb, rfl⟩ := step_parts h
  · rw [hdone] at hdone'; cases hdone'
  · have hsame : s.SameRun b :=
      hf.sameRun.trans ((State.sameFetch_of_issue hi).trans (State.sameFetch_of_unitPhases hb)).toSameRun
    have hunit (u : UnitId) : b.endTick.unit u = b.unit u := by simp [State.unit]
    rw [State.endTick_unitTrace, hunit, ← hsame.cfg, ← hsame.cc, ← hsame.unitTrace, State.emitUnitTrace]
    split
    · rfl
    · rw [List.append_nil]

end Sys2Proof.Machine
end

section
/-! Memory stays canonical (20_memory.md R17, R41): only the completion of a store writes it, inside its bounds. -/

namespace Sys2Proof.Machine

theorem State.memoryOk_write {s : State} (h : s.MemoryOk) {a : Nat} (v : Word) (ha : a < s.cfg.memWords) :
    (s.setMem (s.mem.write a v)).MemoryOk := by
  obtain ⟨hwf, hbound⟩ := h
  refine ⟨Memory.write_wf s.mem a v hwf, fun c hc => ?_⟩
  obtain rfl | hc := Memory.mem_write hc
  · exact ha
  · exact hbound c hc

theorem State.memoryOk_of_eq {s t : State} (h : s.MemoryOk) (hcfg : t.cfg = s.cfg) (hmem : t.mem = s.mem) :
    t.MemoryOk := by
  rwa [State.MemoryOk, hmem, hcfg]

section Visits

variable {s t : State} {k : Kind} {u : UnitId} {n : Nat} {r : InstrRecord} {d a b : Reg} {imm : Addr}

theorem State.ReadVisit.mem_eq (h : s.ReadVisit k u n r d t) : t.mem = s.mem := by
  cases h with
  | skip => rfl
  | wait => exact State.claimed_mem ..
  | read => exact State.claimed_mem ..

theorem State.WriteVisit.mem_eq (h : s.WriteVisit k u n r d t) : t.mem = s.mem := by
  cases h with
  | skip => rfl
  | retire v => exact State.delivered_mem ..

theorem State.ExecuteVisit.mem_cases (h : s.ExecuteVisit k u n r a b imm t) :
    t.mem = s.mem ∨ k = .st ∧ effectiveAddress imm < s.cfg.memWords ∧
      ∃ v, t.mem = s.mem.write (effectiveAddress imm) v := by
  cases h with
  | skip => exact .inl rfl
  | count => exact .inl rfl
  | complete v mem _ _ _ hwriter hstore =>
    by_cases hk : k = .st
    · obtain ⟨hmem, haddr, -⟩ := hstore hk
      exact .inr ⟨hk, haddr, v, hmem⟩
    · exact .inl (hwriter hk)

theorem State.Visit.memoryOk (hserv : s.Serving u n r) (h : s.Visit k u n r d a b imm t) (hs : s.MemoryOk) :
    t.MemoryOk := by
  have hcfg := (h.sameFetch hserv).cfg
  cases h with
  | read h => exact State.memoryOk_of_eq hs hcfg h.mem_eq
  | execute h =>
    obtain hmem | ⟨-, haddr, v, hmem⟩ := h.mem_cases
    · exact State.memoryOk_of_eq hs hcfg hmem
    · exact State.memoryOk_of_eq (State.memoryOk_write hs v haddr) hcfg hmem
  | write h => exact State.memoryOk_of_eq hs hcfg h.mem_eq
  | clear h => exact State.memoryOk_of_eq hs hcfg (by rw [h, State.refreshReadiness_mem])

end Visits

theorem State.Fetches.mem_eq {s f : State} (h : s.Fetches f) : f.mem = s.mem := by
  cases h with
  | halted => rfl
  | meetsHalt => rfl
  | queues st => exact State.fetchWord_mem _ _

theorem State.issued_mem (s : State) (k : Kind) (u : UnitId) (n : Nat) (d a b : Reg) :
    (s.issued k u n d a b).mem = s.mem := by
  rw [State.issued_frame]

theorem State.memoryOk_of_issue {f i : State} (h : i = f ∨ ∃ n r u, f.Issues u n r i) (hf : f.MemoryOk) :
    i.MemoryOk := by
  obtain rfl | ⟨n, r, u, h⟩ := h
  · exact hf
  · exact State.memoryOk_of_eq hf h.sameFetch.cfg (by rw [h.result, State.issued_mem, State.at_mem])

/-- Settles O48: a visit keeps the memory or writes one word of it inside its bounds. -/
theorem stepKeepsMemoryCanonical : Obligations.StepKeepsMemoryCanonical := by
  intro s t hs h
  obtain ⟨-, rfl⟩ | ⟨-, f, i, b, hf, hi, hb, rfl⟩ := step_parts h
  · exact hs
  · have hfetch : f.MemoryOk := State.memoryOk_of_eq hs hf.sameRun.cfg hf.mem_eq
    have hvisits : b.MemoryOk := State.unitPhases_keep (P := State.MemoryOk) (fun _ _ hp => hp)
      (fun _ _ _ _ _ _ hp hb hv => hv.memoryOk hb.serving hp) hb (State.memoryOk_of_issue hi hfetch)
    exact State.memoryOk_of_eq hvisits b.endTick_cfg b.endTick_mem

end Sys2Proof.Machine
end

section
/-! Readiness flags (46_clear_busy.md R118): while a unit stays busy they only rise. -/

namespace Sys2Proof.Machine

/-- Unit `g` is what became of unit `f`: if it is busy, `f` was, and no readiness flag of `f` has fallen. -/
def FunctionalUnit.RisesTo (f g : FunctionalUnit) : Prop :=
  g.busy = true → f.busy = true ∧ (f.ready0 = true → g.ready0 = true) ∧ (f.ready1 = true → g.ready1 = true)

theorem FunctionalUnit.RisesTo.refl (f : FunctionalUnit) : f.RisesTo f := fun h => ⟨h, id, id⟩

theorem FunctionalUnit.RisesTo.trans {f g h : FunctionalUnit} (hfg : f.RisesTo g) (hgh : g.RisesTo h) : f.RisesTo h := by
  intro hbusy
  obtain ⟨hg, h0, h1⟩ := hgh hbusy
  obtain ⟨hf, g0, g1⟩ := hfg hg
  exact ⟨hf, h0 ∘ g0, h1 ∘ g1⟩

section Visits

variable {s t : State} {k : Kind} {u : UnitId} {n : Nat} {r : InstrRecord} {d a b : Reg} {imm : Addr}

theorem State.rises_put {f : FunctionalUnit} {x : InstrRecord} (hserv : s.Serving u n r)
    (hf : (s.unit u).RisesTo f) (v : UnitId) : (s.unit v).RisesTo ((s.put u n f x).unit v) := by
  by_cases hv : v = u
  · subst hv
    rwa [State.unit_put_same f x (State.idx_lt_of_slot hserv.1)]
  · rw [State.unit_put_ne f x hv]
    exact .refl _

theorem State.ReadVisit.rises (hserv : s.Serving u n r) (h : s.ReadVisit k u n r d t) (v : UnitId) :
    (s.unit v).RisesTo (t.unit v) := by
  cases h with
  | skip => exact .refl _
  | wait => rw [State.unit_claimed]; exact .refl _
  | read =>
    rw [← State.unit_claimed s u k d v]
    refine State.rises_put (State.serving_claimed k d hserv) ?_ v
    exact fun hbusy => ⟨hbusy, id, id⟩

theorem State.ExecuteVisit.rises (hserv : s.Serving u n r) (h : s.ExecuteVisit k u n r a b imm t) (v : UnitId) :
    (s.unit v).RisesTo (t.unit v) := by
  cases h with
  | skip => exact .refl _
  | count =>
    refine State.rises_put hserv ?_ v
    exact fun hbusy => ⟨hbusy, id, id⟩
  | complete w mem =>
    refine State.rises_put (s := s.setMem mem) hserv ?_ v
    exact fun hbusy => ⟨hbusy, id, id⟩

theorem State.WriteVisit.rises (hserv : s.Serving u n r) (h : s.WriteVisit k u n r d t) (v : UnitId) :
    (s.unit v).RisesTo (t.unit v) := by
  cases h with
  | skip => exact .refl _
  | retire w =>
    have hserv' := State.serving_delivered k d hserv w
    have hidle (f : FunctionalUnit) : f.RisesTo FunctionalUnit.idle := fun h => nomatch h
    rw [← State.unit_delivered s u k d w v]
    exact State.rises_put (s := (s.delivered k u d w).enter _) hserv' (hidle _) v

theorem State.rises_refreshReadiness (s : State) (u : UnitId) (a b : Reg) (v : UnitId) :
    (s.unit v).RisesTo ((s.refreshReadiness u a b).unit v) := by
  rw [State.refreshReadiness_eq, State.unit_updateUnit]
  split
  · exact fun hbusy => ⟨hbusy, fun h => by simp [FunctionalUnit.refreshed, h], fun h => by simp [FunctionalUnit.refreshed, h]⟩
  · exact .refl _

theorem State.Visit.rises (hserv : s.Serving u n r) (h : s.Visit k u n r d a b imm t) (v : UnitId) :
    (s.unit v).RisesTo (t.unit v) := by
  cases h with
  | read h => exact h.rises hserv v
  | execute h => exact h.rises hserv v
  | write h => exact h.rises hserv v
  | clear h => exact h ▸ State.rises_refreshReadiness s u a b v

theorem State.Issues.unit_of_busy (h : s.Issues u n r t) {v : UnitId} (hv : (s.unit v).busy = true) :
    t.unit v = s.unit v := by
  obtain ⟨-, -, -, hfree, -, rfl⟩ := h
  have hne : v ≠ u := by
    rintro rfl
    rw [((State.freeUnit_eq_some_iff v).mp hfree).2.2.1] at hv
    cases hv
  rw [State.unit_issued_ne _ _ _ _ hne, State.unit_at]

end Visits

theorem State.rises_of_unitPhases {i b : State} (h : i.unitPhases = .next b) (v : UnitId) :
    (i.unit v).RisesTo (b.unit v) :=
  State.unitPhases_keep (P := fun t => (i.unit v).RisesTo (t.unit v)) (fun _ _ hp => hp)
    (fun _ _ _ _ _ _ hp hb hv => hp.trans (hv.rises hb.serving v)) h (.refl _)

/-- Compaction moves a unit's slot and keeps its other fields. -/
theorem State.unit_compact_eq (s : State) (u : UnitId) : ∃ n, s.compact.unit u = { s.unit u with slot := n } := by
  rw [s.unit_compact u, FunctionalUnit.remap]
  split
  · exact ⟨_, rfl⟩
  · exact ⟨(s.unit u).slot, rfl⟩

/-- The fetch phase moves a unit's slot and keeps its other fields. -/
theorem State.Fetches.unit_eq {s f : State} (h : s.Fetches f) (u : UnitId) :
    ∃ n, f.unit u = { s.unit u with slot := n } := by
  cases h with
  | halted => exact ⟨(s.unit u).slot, rfl⟩
  | meetsHalt => exact ⟨(s.unit u).slot, rfl⟩
  | queues st =>
    have hcompact : ((s.at st).fetchWord (s.mem.read s.pc)).unit u = (s.at st).compact.unit u := by
      obtain ⟨-, h⟩ | ⟨-, h⟩ := (s.at st).fetchWord_cases (s.mem.read s.pc)
      · rw [h]; rfl
      · rw [h]
    rw [hcompact]
    exact (s.at st).unit_compact_eq u

/-- Settles O31: neither fetch nor issue changes a busy unit's flags, and a visit raises them or resets the unit. -/
theorem readinessFlagsOnlyRise : Obligations.ReadinessFlagsOnlyRise := by
  intro s t h v hs ht
  obtain ⟨-, rfl⟩ | ⟨-, f, i, b, hf, hi, hb, rfl⟩ := step_parts h
  · exact ⟨id, id⟩
  · obtain ⟨n, hfetch⟩ := hf.unit_eq v
    have hbusy : (f.unit v).busy = true := by rw [hfetch]; exact hs
    have hissue : i.unit v = f.unit v := by
      obtain rfl | ⟨n, r, u, hi⟩ := hi
      · rfl
      · exact hi.unit_of_busy hbusy
    have hend : b.endTick.unit v = b.unit v := by simp [State.unit]
    rw [hend] at ht ⊢
    have hrise := State.rises_of_unitPhases hb v ht
    rw [hissue, hfetch] at hrise
    exact hrise.2

end Sys2Proof.Machine
end

section
/-! The frames of the executing instructions at every station (42_issue.md to 46_clear_busy.md, 48_loadstore.md). -/

namespace Sys2Proof.Machine

section Owner

variable {s t : State} {k : Kind} {u : UnitId} {n : Nat} {r : InstrRecord} {d a b : Reg} {imm : Addr}

/-- A claim changes no scoreboard entry but the destination's, and none at all for a store. -/
theorem State.owner_claimed_of_ne {x : Reg} (hx : k = .st ∨ x ≠ d) : (s.claimed k u d).owner x = s.owner x := by
  rw [State.owner_claimed, if_neg]
  rintro ⟨hk, hxd, -, -⟩
  exact hx.elim hk fun h => h hxd

theorem State.ReadVisit.owner_of_ne (h : s.ReadVisit k u n r d t) {x : Reg} (hx : k = .st ∨ x ≠ d) :
    t.owner x = s.owner x := by
  cases h with
  | skip => rfl
  | wait => exact State.owner_claimed_of_ne hx
  | read => exact State.owner_claimed_of_ne hx

theorem State.ExecuteVisit.owner_eq (h : s.ExecuteVisit k u n r a b imm t) (x : Reg) : t.owner x = s.owner x := by
  cases h <;> rfl

theorem State.WriteVisit.owner_of_ne (h : s.WriteVisit k u n r d t) {x : Reg} (hx : k = .st ∨ x ≠ d) :
    t.owner x = s.owner x := by
  cases h with
  | skip => rfl
  | retire v =>
    rw [State.owner_retired, State.owner_delivered, if_neg]
    rintro ⟨hk, hxd, -⟩
    exact hx.elim hk fun h => h hxd

theorem State.owner_issued_of_ne {x : Reg} (hx : k = .st ∨ x ≠ d) : (s.issued k u n d a b).owner x = s.owner x := by
  rw [State.owner_issued, if_neg]
  rintro ⟨hk, hxd, -⟩
  exact hx.elim hk fun h => h hxd

theorem State.ReadVisit.regs_eq (h : s.ReadVisit k u n r d t) : t.regs = s.regs := by
  cases h with
  | skip => rfl
  | wait => exact State.claimed_regs ..
  | read => exact State.claimed_regs ..

theorem State.ExecuteVisit.regs_eq (h : s.ExecuteVisit k u n r a b imm t) : t.regs = s.regs := by
  cases h <;> rfl

theorem State.WriteVisit.reg_of_ne (h : s.WriteVisit k u n r d t) {x : Reg} (hx : k = .st ∨ x ≠ d) :
    t.reg x = s.reg x := by
  cases h with
  | skip => rfl
  | retire v =>
    rw [State.reg_retired, State.reg_delivered, if_neg]
    rintro ⟨hk, hxd⟩
    exact hx.elim hk fun h => h hxd

theorem State.ReadVisit.instrTrace_eq (h : s.ReadVisit k u n r d t) : t.instrTrace = s.instrTrace := by
  have hclaimed : (s.claimed k u d).instrTrace = s.instrTrace := by rw [State.claimed_frame]
  cases h with
  | skip => rfl
  | wait => exact hclaimed
  | read => exact hclaimed

theorem State.ExecuteVisit.instrTrace_eq (h : s.ExecuteVisit k u n r a b imm t) : t.instrTrace = s.instrTrace := by
  cases h <;> rfl

end Owner

/-- What an executing instruction may change where it is served: registers and scoreboard entries at its destination only and
never for a store, memory at its address only and only for a store. -/
structure State.Served (s : State) (k : Kind) (d : Reg) (imm : Addr) (t : State) : Prop where
  cfg : t.cfg = s.cfg
  cc : t.cc = s.cc
  unitTrace : t.unitTrace = s.unitTrace
  haltReached : t.haltReached = s.haltReached
  reg : ∀ x, k = .st ∨ x ≠ d → t.reg x = s.reg x
  owner : ∀ x, k = .st ∨ x ≠ d → t.owner x = s.owner x
  mem : ∀ x, k ≠ .st ∨ x ≠ effectiveAddress imm → t.mem.read x = s.mem.read x
  memAt : k ≠ .st ∨ (∀ u, s.station ≠ .execute u) → t.mem = s.mem
  regsAt : (∀ u, s.station ≠ .writeBack u) → t.regs = s.regs ∧ t.instrTrace = s.instrTrace

section Served

variable {s t : State} {k : Kind} {d a b : Reg} {imm : Addr}

/-- The frame of a place where neither registers nor memory are written. -/
theorem State.served_of_eq (hrun : s.SameRun t) (hhalt : t.haltReached = s.haltReached) (hregs : t.regs = s.regs)
    (hmem : t.mem = s.mem) (htrace : t.instrTrace = s.instrTrace)
    (howner : ∀ x, k = .st ∨ x ≠ d → t.owner x = s.owner x) : s.Served k d imm t where
  cfg := hrun.cfg
  cc := hrun.cc
  unitTrace := hrun.unitTrace
  haltReached := hhalt
  reg x _ := by rw [State.reg, hregs]; rfl
  owner := howner
  mem x _ := by rw [hmem]
  memAt _ := hmem
  regsAt _ := ⟨hregs, htrace⟩

/-- Every executing instruction, wherever in a tick it is served, changes no more than this. -/
theorem State.served_of_exec (h : exec (.ofKind k d a b imm) s = .next t) : s.Served k d imm t := by
  cases hs : s.station with
  | fetch =>
    rw [exec_fetch hs] at h
    cases h
    exact State.served_of_eq (State.sameRun_fetchWord _) (s.fetchWord_haltReached _) (s.fetchWord_regs _)
      (s.fetchWord_mem _) (s.fetchWord_instrTrace _) fun x _ => by simp [State.owner]
  | issue u n =>
    rw [exec_issue d a b hs] at h
    cases h
    have hrun : s.SameRun (s.issued k u n d a b) :=
      ⟨by rw [State.issued_frame], by rw [State.issued_frame], by rw [State.issued_frame],
        s.length_issued k u n d a b⟩
    exact State.served_of_eq hrun (by rw [State.issued_frame]) (by rw [State.issued_frame]) (s.issued_mem k u n d a b)
      (by rw [State.issued_frame]) fun x hx => State.owner_issued_of_ne hx
  | readOperands u =>
    obtain ⟨n, r, hserv⟩ := State.exists_serving_of_exec (.inl hs) h
    have hv := exec_readOperands_next hs hserv h
    have hsame := hv.sameFetch hserv
    exact State.served_of_eq hsame.toSameRun hsame.haltReached hv.regs_eq hv.mem_eq hv.instrTrace_eq
      fun x hx => hv.owner_of_ne hx
  | execute u =>
    obtain ⟨n, r, hserv⟩ := State.exists_serving_of_exec (.inr (.inl hs)) h
    have hv := exec_execute_next hs hserv h
    have hsame := hv.sameFetch hserv
    refine ⟨hsame.cfg, hsame.cc, hsame.unitTrace, hsame.haltReached, fun x _ => by rw [State.reg, hv.regs_eq]; rfl,
      fun x _ => hv.owner_eq x, fun x hx => ?_, fun hk => ?_, fun _ => ⟨hv.regs_eq, hv.instrTrace_eq⟩⟩
    · obtain hmem | ⟨hk, -, v, hmem⟩ := hv.mem_cases
      · rw [hmem]
      · rw [hmem]
        exact Memory.read_write_ne _ _ (hx.resolve_left fun h => h hk)
    · obtain hmem | ⟨hst, -⟩ := hv.mem_cases
      · exact hmem
      · exact hk.elim (fun hk => absurd hst hk) fun hk => absurd hs (hk u)
  | writeBack u =>
    obtain ⟨n, r, hserv⟩ := State.exists_serving_of_exec (.inr (.inr hs)) h
    have hv := exec_writeBack_next hs hserv h
    have hsame := hv.sameFetch hserv
    exact ⟨hsame.cfg, hsame.cc, hsame.unitTrace, hsame.haltReached, fun x hx => hv.reg_of_ne hx,
      fun x hx => hv.owner_of_ne hx, fun x _ => by rw [hv.mem_eq], fun _ => hv.mem_eq, fun hne => absurd hs (hne u)⟩
  | clearBusy u =>
    rw [exec_clearBusy k d a b imm hs] at h
    cases h
    exact State.served_of_eq (State.sameFetch_updateUnit _).toSameRun rfl rfl rfl rfl fun _ _ => rfl

end Served

/-- Settles O43: the frame of a kind that is not a store. -/
theorem registerWriterFrame : Obligations.RegisterWriterFrame := by
  intro s t k d a b imm hk h
  have hserved := State.served_of_exec h
  exact ⟨fun x hx => hserved.reg x (.inr hx), fun x hx => hserved.owner x (.inr hx),
    fun x => hserved.mem x (.inl hk), hserved.haltReached, hserved.cc, hserved.cfg, hserved.unitTrace, hserved.regsAt⟩

/-- Settles O44: the frame of a store, whose registers and scoreboard are unchanged entry by entry. -/
theorem storeFrame : Obligations.StoreFrame := by
  intro s t d a b imm h
  have hserved := State.served_of_exec (k := .st) h
  have hregs : t.regs = s.regs := Vector.ext fun j hj => hserved.reg ⟨j, hj⟩ (.inl rfl)
  have hbusy : t.busy = s.busy := Vector.ext fun j hj => hserved.owner ⟨j, hj⟩ (.inl rfl)
  exact ⟨hregs, hbusy, fun x hx => hserved.mem x (.inr hx), hserved.haltReached, hserved.cc, hserved.cfg,
    hserved.unitTrace, fun hne => hserved.memAt (.inr hne)⟩

end Sys2Proof.Machine
end

section
/-! The timestamps of a record (10_state.md R20(a)) as the stages set them. -/

namespace Sys2Proof.Machine

theorem before_iff (t : Option Nat) (c : Nat) : before t c = true ↔ ∃ v ∈ t, v < c := by
  cases t with
  | none => simp
  | some v => simp

theorem StrictlyAfter.none {a b : Option Nat} (h : StrictlyAfter a b) (ha : a = none) : b = none := by
  refine Option.eq_none_iff_forall_not_mem.mpr fun t ht => ?_
  obtain ⟨e, he, -⟩ := h t ht
  rw [ha] at he
  cases he

theorem StrictlyAfter.isSome {a b : Option Nat} (h : StrictlyAfter a b) (hb : b.isSome) : a.isSome := by
  obtain ⟨t, ht⟩ := Option.isSome_iff_exists.mp hb
  obtain ⟨e, he, -⟩ := h t ht
  exact Option.isSome_iff_exists.mpr ⟨e, he⟩

theorem strictlyAfter_some {a : Option Nat} {c : Nat} : StrictlyAfter a (some c) ↔ before a c = true := by
  simp [StrictlyAfter, before_iff]

theorem strictlyAfter_none_right (a : Option Nat) : StrictlyAfter a none := nofun

theorem inThePast_none (c : Nat) : InThePast none c := nofun

theorem inThePast_now (c : Nat) : InThePast (some c) (c + 1) := by
  rintro v hv
  cases hv
  exact Nat.lt_succ_self c

theorem InThePast.mono {t : Option Nat} {c c' : Nat} (h : InThePast t c) (hc : c ≤ c') : InThePast t c' :=
  fun v hv => (h v hv).trans_le hc

namespace InstrRecord

variable {r : InstrRecord} {c : Nat}

theorem StampsOrdered.mono {c' : Nat} (h : r.StampsOrdered c) (hc : c ≤ c') : r.StampsOrdered c' := by
  obtain ⟨hread, hexec, hwrite, pissue, pread, pexec, pwrite⟩ := h
  exact ⟨hread, hexec, hwrite, pissue.mono hc, pread.mono hc, pexec.mono hc, pwrite.mono hc⟩

theorem StampsOrdered.read_of_issue (h : r.StampsOrdered c) (hissue : r.issue = none) : r.read = none := by
  obtain ⟨hread, -⟩ := h
  exact hread.none hissue

theorem StampsOrdered.exec_of_read (h : r.StampsOrdered c) (hread : r.read = none) : r.exec = none := by
  obtain ⟨-, hexec, -⟩ := h
  exact hexec.none hread

theorem StampsOrdered.write_of_exec (h : r.StampsOrdered c) (hexec : r.exec = none) : r.write = none := by
  obtain ⟨-, -, hwrite, -⟩ := h
  exact hwrite.none hexec

/-- An unissued record has no stamp at all. -/
theorem StampsOrdered.unwritten (h : r.StampsOrdered c) (hissue : r.issue = none) : r.write = none :=
  h.write_of_exec (h.exec_of_read (h.read_of_issue hissue))

theorem StampsOrdered.setIssue (h : r.StampsOrdered (c + 1)) (hissue : r.issue = none) (v : Option Nat) :
    StampsOrdered { r with issue := some c, unit := v } (c + 1) := by
  have hread := h.read_of_issue hissue
  obtain ⟨-, hexec, hwrite, -, pread, pexec, pwrite⟩ := h
  refine ⟨?_, hexec, hwrite, inThePast_now c, pread, pexec, pwrite⟩
  show StrictlyAfter (some c) r.read
  rw [hread]
  exact strictlyAfter_none_right _

theorem StampsOrdered.setRead (h : r.StampsOrdered (c + 1)) (hread : r.read = none)
    (hissue : before r.issue c = true) : StampsOrdered { r with read := some c } (c + 1) := by
  have hnone := h.exec_of_read hread
  obtain ⟨-, -, hwrite, pissue, -, pexec, pwrite⟩ := h
  refine ⟨strictlyAfter_some.mpr hissue, ?_, hwrite, pissue, inThePast_now c, pexec, pwrite⟩
  show StrictlyAfter (some c) r.exec
  rw [hnone]
  exact strictlyAfter_none_right _

theorem StampsOrdered.setExec (h : r.StampsOrdered (c + 1)) (hexec : r.exec = none)
    (hread : before r.read c = true) : StampsOrdered { r with exec := some c } (c + 1) := by
  have hnone := h.write_of_exec hexec
  obtain ⟨hord, -, -, pissue, pread, -, pwrite⟩ := h
  refine ⟨hord, strictlyAfter_some.mpr hread, ?_, pissue, pread, inThePast_now c, pwrite⟩
  show StrictlyAfter (some c) r.write
  rw [hnone]
  exact strictlyAfter_none_right _

theorem StampsOrdered.setWrite (h : r.StampsOrdered (c + 1)) (hexec : before r.exec c = true) :
    StampsOrdered { r with write := some c } (c + 1) := by
  obtain ⟨hord, hord', -, pissue, pread, pexec, -⟩ := h
  exact ⟨hord, hord', strictlyAfter_some.mpr hexec, pissue, pread, pexec, inThePast_now c⟩

end InstrRecord

end Sys2Proof.Machine
end

section
/-! The invariant of a run inside a tick: that of `State.Inv` with the stamps of the running cycle allowed, and without the
clause that a missing flag has a pending producer, which the write-back phase breaks and the clear-busy phase restores. -/

namespace Sys2Proof.Machine

/-- R83, R91, R92, R112 for one unit, which serves `r`. -/
abbrev State.OwnsAt (s : State) (u : UnitId) (r : InstrRecord) : Prop :=
  if u.kind = .st then (s.unit u).waw = false
  else (s.unit u).waw = false ∨ r.read.isSome → s.owner r.dst = some u

/-- A producer is recorded exactly while the flag is 0 (R82, R115). -/
abbrev FunctionalUnit.ProducersOk (f : FunctionalUnit) : Prop := f.q0.isSome = !f.ready0 ∧ f.q1.isSome = !f.ready1

/-- A flag is 0 only while the register has a pending producer (R117). -/
abbrev State.PendingAt (s : State) (u : UnitId) : Prop :=
  (s.unit u).busy = true →
    ((s.unit u).ready0 = false → ∃ r ∈ (s.unit u).src0, (s.owner r).isSome) ∧
      ((s.unit u).ready1 = false → ∃ r ∈ (s.unit u).src1, (s.owner r).isSome)

/-- A queue record inside the tick of cycle `cc` (R19, R20). -/
abbrev InstrRecord.MidOk (r : InstrRecord) (pc cc : Nat) : Prop :=
  r.pidx < pc ∧ r.FieldsDecoded ∧ r.StampsOrdered (cc + 1) ∧ r.issue.isSome = r.unit.isSome

/-- The invariant inside a tick. -/
structure State.Mid (s : State) : Prop where
  latencies : s.cfg.latenciesLegal = true
  length : s.queue.length ≤ queueSlots
  cursor : s.pc ≤ s.cfg.memWords
  ordered : s.queue.Pairwise fun a b => a.pidx < b.pidx
  records : ∀ r ∈ s.queue, r.MidOk s.pc s.cc
  sizes : ∀ k, (s.pools.get k).length = s.cfg.nrUnits.get k
  idle : ∀ u ∈ s.unitIds, (s.unit u).busy = false → s.unit u = FunctionalUnit.idle
  serves : ∀ u ∈ s.unitIds, (s.unit u).busy = true →
    ∃ n r, s.Serving u n r ∧ s.Serves u r ∧ s.Progress u r ∧ s.OwnsAt u r ∧ (s.unit u).ProducersOk
  served : ∀ n r, s.queue[n]? = some r → r.issue.isSome → r.write = none →
    ∃ u ∈ s.unitIds, (s.unit u).busy = true ∧ (s.unit u).slot = some n
  scoreboard : s.ScoreboardOk

/-- The producers of all missing flags are pending. -/
abbrev State.AllPending (s : State) : Prop := ∀ u ∈ s.unitIds, s.PendingAt u

/-! From one tick to the inside of the next, and back. -/

theorem State.Inv.mid {s : State} (h : s.Inv) (hlat : s.cfg.latenciesLegal = true) : s.Mid := by
  obtain ⟨-, ⟨hlength, hcursor, hordered, hrecords⟩, ⟨hsizes, hidle⟩, ⟨hserves, hserved⟩, hscore, howns, hready, -⟩ := h
  refine ⟨hlat, hlength, hcursor, hordered, fun r hr => ?records, fun k => hsizes k (Kind.mem_all k), hidle,
    fun u hu hbusy => ?serves, fun n r hr => ?served, hscore⟩
  case records =>
    obtain ⟨hpidx, hdec, hstamps, hissued⟩ := hrecords r hr
    exact ⟨hpidx, hdec, hstamps.mono (Nat.le_succ _), hissued⟩
  case serves =>
    obtain ⟨r, hinst, hs, hp⟩ := hserves u hu hbusy
    obtain ⟨n, hserv⟩ := State.inst_eq_some hinst
    obtain ⟨hq0, hq1, -⟩ := hready u hu hbusy
    refine ⟨n, r, hserv, hs, hp, ?_, hq0, hq1⟩
    have hown := howns u hu hbusy
    unfold State.OwnsAt
    split
    · next hk => rwa [if_pos hk] at hown
    · next hk =>
      rw [if_neg hk] at hown
      exact hown r hinst
  case served =>
    obtain ⟨hn, -⟩ := List.getElem?_eq_some_iff.mp hr
    exact hserved n (List.mem_range.mpr hn) r hr

theorem State.unit_endTick (s : State) (u : UnitId) : s.endTick.unit u = s.unit u := by simp [State.unit]

theorem State.owner_endTick (s : State) (x : Reg) : s.endTick.owner x = s.owner x := by simp [State.owner]

theorem State.inst_endTick (s : State) (u : UnitId) : s.endTick.inst u = s.inst u := by
  rw [State.inst, State.unit_endTick, State.endTick_queue, State.inst]

theorem State.unitIds_endTick (s : State) : s.endTick.unitIds = s.unitIds := by simp [State.unitIds]

theorem State.Mid.inv_endTick {s : State} (h : s.Mid) (hpending : s.AllPending) (hmem : s.MemoryOk) :
    s.endTick.Inv := by
  have hlength (k : Kind) : (s.endTick.pools.get k).length = s.endTick.cfg.nrUnits.get k := by
    rw [State.endTick_pools, State.endTick_cfg, h.sizes]
  constructor
  case memory => exact State.memoryOk_of_eq hmem s.endTick_cfg s.endTick_mem
  case queue =>
    rw [State.QueueOk, State.endTick_queue, State.endTick_pc, State.endTick_cfg]
    exact ⟨h.length, h.cursor, h.ordered, h.records⟩
  case pools =>
    refine ⟨fun k _ => hlength k, ?_⟩
    simp only [State.unitIds_endTick, State.unit_endTick]
    exact h.idle
  case links =>
    simp only [State.LinksOk, State.Serves, State.Progress, State.unitIds_endTick, State.unit_endTick,
      State.inst_endTick, State.endTick_queue, State.endTick_cfg]
    refine ⟨fun u hu hbusy => ?_, fun n _ r hr => h.served n r hr⟩
    obtain ⟨n, r, hserv, hs, hp, -⟩ := h.serves u hu hbusy
    exact ⟨r, State.inst_of_serving hserv, hs, hp⟩
  case scoreboard =>
    simp only [State.ScoreboardOk, State.unit_endTick, State.owner_endTick]
    exact h.scoreboard
  case ownership =>
    simp only [State.OwnershipOk, State.unitIds_endTick, State.unit_endTick, State.inst_endTick, State.owner_endTick]
    intro u hu hbusy
    obtain ⟨n, r, hserv, -, -, hown, -⟩ := h.serves u hu hbusy
    unfold State.OwnsAt at hown
    split
    · next hk => rwa [if_pos hk] at hown
    · next hk =>
      rw [if_neg hk] at hown
      intro x hx
      rw [State.inst_of_serving hserv] at hx
      cases hx
      exact hown
  case readiness =>
    simp only [State.ReadinessOk, State.unitIds_endTick, State.unit_endTick, State.owner_endTick]
    intro u hu hbusy
    obtain ⟨n, r, -, -, -, -, hq0, hq1⟩ := h.serves u hu hbusy
    exact ⟨hq0, hq1, hpending u hu hbusy⟩
  case betweenTicks => rfl

theorem State.Mid.at {s : State} (h : s.Mid) (st : Station) : (s.at st).Mid :=
  ⟨h.latencies, h.length, h.cursor, h.ordered, h.records, h.sizes, h.idle, h.serves, h.served, h.scoreboard⟩

/-! What the invariant says of a busy unit. -/

section Busy

variable {s : State} {k : Kind} {u : UnitId} {n : Nat} {r : InstrRecord}

theorem State.Serving.unique {m : Nat} {x : InstrRecord} (h : s.Serving u n r) (h' : s.Serving u m x) :
    n = m ∧ r = x := by
  obtain ⟨hslot, hrec⟩ := h
  obtain ⟨hslot', hrec'⟩ := h'
  rw [hslot] at hslot'
  cases hslot'
  rw [hrec] at hrec'
  cases hrec'
  exact ⟨rfl, rfl⟩

/-- All that the invariant says of a busy unit and its record. -/
structure State.BusyOk (s : State) (u : UnitId) (r : InstrRecord) : Prop where
  serves : s.Serves u r
  progress : s.Progress u r
  owns : s.OwnsAt u r
  producers : (s.unit u).ProducersOk

theorem State.Mid.busyOk (h : s.Mid) (hbusy : (s.unit u).busy = true) (hserv : s.Serving u n r) : s.BusyOk u r := by
  obtain ⟨m, x, hserv', hs, hp, ho, hq⟩ := h.serves u (State.mem_unitIds_of_busy hbusy) hbusy
  obtain ⟨-, rfl⟩ := State.Serving.unique hserv hserv'
  exact ⟨hs, hp, ho, hq⟩

theorem State.Mid.kind_eq (h : s.Mid) (hb : s.Busy k u n r) : k = u.kind := by
  obtain ⟨-, -, -, hkind, -⟩ := (h.busyOk hb.busy hb.serving).serves
  exact Option.some.inj (hb.kind.symm.trans hkind)

/-- No two busy units serve the same slot: the record names its one unit. -/
theorem State.Mid.unit_of_slot (h : s.Mid) {v : UnitId} (hu : (s.unit u).busy = true) (hv : (s.unit v).busy = true)
    (hus : (s.unit u).slot = some n) (hvs : (s.unit v).slot = some n) : v = u := by
  obtain ⟨m, x, hserv, ⟨-, -, hunit, hkind, -⟩, -⟩ := h.serves u (State.mem_unitIds_of_busy hu) hu
  obtain ⟨m', y, hserv', ⟨-, -, hunit', hkind', -⟩, -⟩ := h.serves v (State.mem_unitIds_of_busy hv) hv
  have hm : m = n := Option.some.inj (hserv.1.symm.trans hus)
  have hm' : m' = n := Option.some.inj (hserv'.1.symm.trans hvs)
  subst hm hm'
  have hxy : x = y := Option.some.inj (hserv.2.symm.trans hserv'.2)
  subst hxy
  rw [hunit] at hunit'
  rw [hkind] at hkind'
  obtain ⟨k, j⟩ := u
  obtain ⟨k', j'⟩ := v
  cases hunit'
  cases hkind'
  rfl

theorem State.Mid.record (h : s.Mid) (hrec : s.queue[n]? = some r) : r.MidOk s.pc s.cc :=
  h.records r (List.mem_of_getElem? hrec)

end Busy

/-! A change of one unit and its record, as far as the invariant sees it. -/

/-- Nothing but unit `u`, the record of slot `n`, now `x`, and what the invariant does not speak of or says apart. -/
structure State.Edits (s t : State) (u : UnitId) (n : Nat) (x : InstrRecord) : Prop where
  cfg : t.cfg = s.cfg
  pc : t.pc = s.pc
  cc : t.cc = s.cc
  length : ∀ k, (t.pools.get k).length = (s.pools.get k).length
  queue : t.queue = s.queue.set n x
  unit_ne : ∀ v, v ≠ u → t.unit v = s.unit v

theorem State.edits_put {s s' : State} {u : UnitId} {n : Nat} (f : FunctionalUnit) (x : InstrRecord)
    (hcfg : s'.cfg = s.cfg) (hpc : s'.pc = s.pc) (hcc : s'.cc = s.cc) (hpools : s'.pools = s.pools)
    (hqueue : s'.queue = s.queue) : s.Edits (s'.put u n f x) u n x where
  cfg := hcfg
  pc := hpc
  cc := hcc
  length k := by rw [State.length_put, hpools]
  queue := by rw [State.put_queue, hqueue]
  unit_ne v hv := by rw [State.unit_put_ne f x hv, State.unit, hpools, State.unit]

theorem InstrRecord.pidx_of_fetched {x r : InstrRecord} (h : x.fetched = r.fetched) : x.pidx = r.pidx := by
  have hpidx : x.fetched.pidx = r.fetched.pidx := by rw [h]
  exact hpidx

theorem InstrRecord.opcode_of_fetched {x r : InstrRecord} (h : x.fetched = r.fetched) : x.opcode = r.opcode := by
  have hopcode : x.fetched.opcode = r.fetched.opcode := by rw [h]
  exact hopcode

theorem InstrRecord.fieldsDecoded_of_fetched {x r : InstrRecord} (h : x.fetched = r.fetched)
    (hr : r.FieldsDecoded) : x.FieldsDecoded := by
  have hdec : r.fetched.FieldsDecoded := hr
  rw [← h] at hdec
  exact hdec

/-- What a change must leave of unit `u` and of the record `x`, now in its slot `n`. -/
structure State.Leaves (t : State) (u : UnitId) (n : Nat) (x : InstrRecord) : Prop where
  stamps : x.StampsOrdered (t.cc + 1)
  issued : x.issue.isSome = x.unit.isSome
  idle : (t.unit u).busy = false → t.unit u = FunctionalUnit.idle ∧ x.write.isSome
  busy : (t.unit u).busy = true → (t.unit u).slot = some n ∧ t.BusyOk u x
  entries : ∀ y, t.owner y = some u → (t.unit u).busy = true ∧ u.kind ≠ .st ∧ (t.unit u).dst = some y

section Edit

variable {s t : State} {u v : UnitId} {n : Nat} {r x : InstrRecord}

theorem State.Edits.mem_unitIds (h : s.Edits t u n x) : v ∈ t.unitIds ↔ v ∈ s.unitIds := by
  rw [State.mem_unitIds, State.mem_unitIds, h.length]

theorem State.Edits.getElem?_ne (h : s.Edits t u n x) {m : Nat} (hm : m ≠ n) : t.queue[m]? = s.queue[m]? := by
  rw [h.queue, List.getElem?_set_ne hm.symm]

theorem State.Edits.serving_ne (h : s.Edits t u n x) {m : Nat} {y : InstrRecord} (hv : v ≠ u) (hm : m ≠ n)
    (hserv : s.Serving v m y) : t.Serving v m y := by
  obtain ⟨hslot, hrec⟩ := hserv
  exact ⟨by rw [h.unit_ne v hv, hslot], by rw [h.getElem?_ne hm, hrec]⟩

/-- What the invariant says of another unit stays, unless its entry is taken from it. -/
theorem State.Edits.busyOk_ne (h : s.Edits t u n x) {y : InstrRecord} (hv : v ≠ u)
    (howner : ∀ z, s.owner z = some v → t.owner z = some v) (hb : s.BusyOk v y) : t.BusyOk v y := by
  obtain ⟨hs, hp, ho, hq⟩ := hb
  have hunit := h.unit_ne v hv
  refine ⟨?_, ?_, ?_, ?_⟩
  · rw [State.Serves, hunit, h.cfg]; exact hs
  · rw [State.Progress, hunit]; exact hp
  · unfold State.OwnsAt at ho ⊢
    rw [hunit]
    split
    · next hk => rwa [if_pos hk] at ho
    · next hk =>
      rw [if_neg hk] at ho
      exact fun hread => howner _ (ho hread)
  · rw [hunit]; exact hq

/-- The one place where the invariant is carried over a change: the conditions on `u` and `x` alone suffice. -/
theorem State.Mid.edit (hs : s.Mid) (he : s.Edits t u n x) (hrec : s.queue[n]? = some r)
    (hx : x.fetched = r.fetched) (own : (s.unit u).busy = true → (s.unit u).slot = some n)
    (apart : ∀ v, v ≠ u → (s.unit v).busy = true → (s.unit v).slot ≠ some n) (hleaves : t.Leaves u n x)
    (howner : ∀ y v, v ≠ u → (t.owner y = some v ↔ s.owner y = some v)) : t.Mid := by
  obtain ⟨hn, -⟩ := List.getElem?_eq_some_iff.mp hrec
  have hwords : t.queue.map InstrRecord.fetched = s.queue.map InstrRecord.fetched := by
    rw [he.queue, map_fetched_set hrec hx]
  have hxn : t.queue[n]? = some x := by rw [he.queue, List.getElem?_set_self hn]
  constructor
  case latencies => rw [he.cfg]; exact hs.latencies
  case length => rw [he.queue, List.length_set]; exact hs.length
  case cursor => rw [he.pc, he.cfg]; exact hs.cursor
  case ordered =>
    have hordered : (s.queue.map InstrRecord.fetched).Pairwise fun a b => a.pidx < b.pidx :=
      List.pairwise_map.mpr hs.ordered
    rw [← hwords] at hordered
    exact List.pairwise_map (f := InstrRecord.fetched).mp hordered
  case records =>
    intro y hy
    rw [he.queue] at hy
    rw [he.pc, he.cc]
    obtain hy | rfl := List.mem_or_eq_of_mem_set hy
    · exact hs.records y hy
    · obtain ⟨hpidx, hdec, -, -⟩ := hs.record hrec
      exact ⟨InstrRecord.pidx_of_fetched hx ▸ hpidx, InstrRecord.fieldsDecoded_of_fetched hx hdec,
        he.cc ▸ hleaves.stamps, hleaves.issued⟩
  case sizes => intro k; rw [he.length, he.cfg, hs.sizes]
  case idle =>
    intro v hv hidle
    by_cases hvu : v = u
    · subst hvu
      exact (hleaves.idle hidle).1
    · rw [he.unit_ne v hvu] at hidle ⊢
      exact hs.idle v (he.mem_unitIds.mp hv) hidle
  case serves =>
    intro v hv hbusy
    by_cases hvu : v = u
    · subst hvu
      obtain ⟨hslot, hb⟩ := hleaves.busy hbusy
      exact ⟨n, x, ⟨hslot, hxn⟩, hb.serves, hb.progress, hb.owns, hb.producers⟩
    · have hbusy' : (s.unit v).busy = true := by rwa [he.unit_ne v hvu] at hbusy
      obtain ⟨m, y, hserv, hsv, hpv, hov, hqv⟩ := hs.serves v (he.mem_unitIds.mp hv) hbusy'
      have hm : m ≠ n := fun hmn => apart v hvu hbusy' (hmn ▸ hserv.1)
      have hb := he.busyOk_ne hvu (fun z => (howner z v hvu).mpr) ⟨hsv, hpv, hov, hqv⟩
      exact ⟨m, y, he.serving_ne hvu hm hserv, hb.serves, hb.progress, hb.owns, hb.producers⟩
  case served =>
    intro m y hy hissue hwrite
    by_cases hm : m = n
    · subst hm
      have hyx : y = x := Option.some.inj (hy.symm.trans hxn)
      subst hyx
      have hbusy : (t.unit u).busy = true := by
        by_contra hidle
        obtain ⟨-, hsome⟩ := hleaves.idle (Bool.eq_false_iff.mpr hidle)
        rw [hwrite] at hsome
        cases hsome
      exact ⟨u, State.mem_unitIds_of_busy hbusy, hbusy, (hleaves.busy hbusy).1⟩
    · rw [he.getElem?_ne hm] at hy
      obtain ⟨v, hv, hbusy, hslot⟩ := hs.served m y hy hissue hwrite
      have hvu : v ≠ u := by
        rintro rfl
        exact hm (Option.some.inj (hslot.symm.trans (own hbusy)))
      exact ⟨v, he.mem_unitIds.mpr hv, by rw [he.unit_ne v hvu, hbusy], by rw [he.unit_ne v hvu, hslot]⟩
  case scoreboard =>
    intro y v hv
    by_cases hvu : v = u
    · subst hvu
      exact hleaves.entries y hv
    · rw [he.unit_ne v hvu]
      exact hs.scoreboard y v ((howner y v hvu).mp hv)

end Edit

end Sys2Proof.Machine
end

section
/-! Every visit of a unit, and an issue, keeps the invariant inside a tick. -/

namespace Sys2Proof.Machine

section Visits

variable {s t : State} {k : Kind} {u : UnitId} {n : Nat} {r x : InstrRecord} {d : Reg}

/-- A visit's change of the busy unit `u` and its record. -/
theorem State.Mid.visit_edit (hs : s.Mid) (hb : s.Busy k u n r) (he : s.Edits t u n x) (hx : x.fetched = r.fetched)
    (hleaves : t.Leaves u n x) (howner : ∀ y v, v ≠ u → (t.owner y = some v ↔ s.owner y = some v)) : t.Mid :=
  hs.edit he hb.serving.2 hx (fun _ => hb.serving.1)
    (fun _ hv hbusy hslot => hv (hs.unit_of_slot hb.busy hbusy hb.serving.1 hslot)) hleaves howner

theorem State.owner_claimed_iff {y : Reg} {v : UnitId} (hv : v ≠ u) :
    (s.claimed k u d).owner y = some v ↔ s.owner y = some v := by
  rw [State.owner_claimed]
  split
  · next h =>
    obtain ⟨-, rfl, -, hfree⟩ := h
    simp [hfree, hv.symm]
  · rfl

theorem State.owner_delivered_iff {y : Reg} {v : UnitId} (w : Word) (hv : v ≠ u) :
    (s.delivered k u d w).owner y = some v ↔ s.owner y = some v := by
  rw [State.owner_delivered]
  split
  · next h =>
    obtain ⟨-, rfl, howned⟩ := h
    simp [howned, hv.symm]
  · rfl

/-- A record and its unit go on belonging together when the visit keeps their fields. -/
theorem State.serves_of_edit (he : s.Edits t u n x) (hx : x.fetched = r.fetched) (hissue : x.issue = r.issue)
    (hunit : x.unit = r.unit) (hwrite : x.write = r.write) (hdst : (t.unit u).dst = (s.unit u).dst)
    (hsrc0 : (t.unit u).src0 = (s.unit u).src0) (hsrc1 : (t.unit u).src1 = (s.unit u).src1) (hs : s.Serves u r) :
    t.Serves u x := by
  have hdst' : x.fetched.dst = r.fetched.dst := by rw [hx]
  have hsrc0' : x.fetched.src0 = r.fetched.src0 := by rw [hx]
  have hsrc1' : x.fetched.src1 = r.fetched.src1 := by rw [hx]
  obtain ⟨h1, h2, h3, h4, h5, h6, h7⟩ := hs
  rw [State.Serves, hissue, hwrite, hunit, InstrRecord.opcode_of_fetched hx, he.cfg, hdst, hsrc0, hsrc1]
  exact ⟨h1, h2, h3, h4, h5.trans (congrArg some hdst'.symm), h6.trans (congrArg some hsrc0'.symm),
    h7.trans (congrArg some hsrc1'.symm)⟩

/-- What a unit owns is kept by a visit that keeps its WAW flag, its destination's entry and whether it has read. -/
theorem State.ownsAt_of_eq (hwaw : (t.unit u).waw = (s.unit u).waw) (hdst : x.dst = r.dst)
    (hread : x.read.isSome = r.read.isSome) (howner : s.owner r.dst = some u → t.owner r.dst = some u)
    (hs : s.OwnsAt u r) : t.OwnsAt u x := by
  unfold State.OwnsAt at hs ⊢
  rw [hwaw, hdst, hread]
  split
  · next hk => rwa [if_pos hk] at hs
  · next hk =>
    rw [if_neg hk] at hs
    exact howner ∘ hs

/-- An entry that names a unit names its destination. -/
theorem State.Mid.dst_of_owner (hs : s.Mid) (hb : s.Busy k u n r) {y : Reg} (hy : s.owner y = some u) :
    y = r.dst ∧ k ≠ .st := by
  obtain ⟨-, hk, hdst⟩ := hs.scoreboard y u hy
  obtain ⟨-, -, -, -, hdst', -⟩ := (hs.busyOk hb.busy hb.serving).serves
  exact ⟨Option.some.inj (hdst.symm.trans hdst'), hs.kind_eq hb ▸ hk⟩

/-! Read operands. -/

theorem State.Mid.edits_claimed (hb : s.Busy k u n r) : s.Edits (s.claimed k u d) u n r where
  cfg := State.claimed_cfg ..
  pc := by rw [State.claimed_frame]
  cc := State.claimed_cc ..
  length j := by rw [State.claimed_pools]
  queue := by rw [State.claimed_queue, set_self_of_get hb.serving.2]
  unit_ne v _ := State.unit_claimed ..

theorem State.Mid.entries_claimed (hs : s.Mid) (hb : s.Busy k u n r) (y : Reg)
    (hy : (s.claimed k u r.dst).owner y = some u) :
    (s.unit u).busy = true ∧ u.kind ≠ .st ∧ (s.unit u).dst = some y := by
  rw [State.owner_claimed] at hy
  split at hy
  · next h =>
    obtain ⟨hk, rfl, -⟩ := h
    obtain ⟨-, -, -, -, hdst, -⟩ := (hs.busyOk hb.busy hb.serving).serves
    exact ⟨hb.busy, hs.kind_eq hb ▸ hk, hdst⟩
  · exact hs.scoreboard y u hy

/-- A claim makes no owned entry another's. -/
theorem State.owner_claimed_self {y : Reg} (h : s.owner y = some u) : (s.claimed k u d).owner y = some u := by
  rw [State.owner_claimed]
  split
  · rfl
  · exact h

/-- After the claim, a unit that may read owns its destination (R92). -/
theorem State.Mid.owns_of_ready (hs : s.Mid) (hb : s.Busy k u n r)
    (hready : (s.claimed k u r.dst).readReady k u r.dst = true) {y : Bool}
    (hy : (s.unit u).waw = y) :
    if u.kind = .st then y = false else (s.claimed k u r.dst).owner r.dst = some u := by
  have hown := (hs.busyOk hb.busy hb.serving).owns
  have hk := hs.kind_eq hb
  unfold State.OwnsAt at hown
  subst hy
  split
  · next hst => rwa [if_pos hst] at hown
  · next hst =>
    rw [if_neg hst] at hown
    rw [State.readReady, if_neg (hk ▸ hst), Bool.and_eq_true] at hready
    obtain ⟨-, hdest⟩ := hready
    rw [State.destinationOk, State.unit_claimed, Bool.or_eq_true, Bool.not_eq_true', decide_eq_true_eq] at hdest
    exact hdest.elim (fun hw => State.owner_claimed_self (hown (.inl hw))) id

theorem State.edits_haveRead : s.Edits ((s.claimed k u d).haveRead u n r) u n { r with read := some s.cc } := by
  have hcc : (s.claimed k u d).cc = s.cc := State.claimed_cc ..
  rw [State.haveRead, hcc]
  exact State.edits_put _ _ (State.claimed_cfg ..) (by rw [State.claimed_frame]) hcc (State.claimed_pools ..)
    (State.claimed_queue ..)

theorem State.unit_haveRead_claimed (hserv : s.Serving u n r) :
    ((s.claimed k u d).haveRead u n r).unit u = { s.unit u with remaining := s.cfg.delay.get u.kind - 1 } := by
  rw [State.unit_haveRead_same (State.serving_claimed k d hserv), State.unit_claimed, State.claimed_cfg]

theorem State.Mid.readVisit (hs : s.Mid) (hb : s.Busy k u n r) (h : s.ReadVisit k u n r r.dst t) : t.Mid := by
  obtain ⟨hpidx, hdec, hstamps, hissued⟩ := hs.record hb.serving.2
  have hok := hs.busyOk hb.busy hb.serving
  cases h with
  | skip => exact hs
  | wait hread =>
    have he : s.Edits (s.claimed k u r.dst) u n r := State.Mid.edits_claimed hb
    have hunit : (s.claimed k u r.dst).unit u = s.unit u := State.unit_claimed ..
    refine hs.visit_edit hb he rfl ?_ fun y v hv => State.owner_claimed_iff hv
    refine ⟨he.cc ▸ hstamps, hissued, fun hidle => ?idle, fun _ => ?busy, fun y hy => ?entries⟩
    case idle => rw [hunit, hb.busy] at hidle; cases hidle
    case entries => rw [hunit]; exact hs.entries_claimed hb y hy
    case busy =>
      refine ⟨by rw [hunit]; exact hb.serving.1, ?_, ?_, ?_, by rw [hunit]; exact hok.producers⟩
      · exact State.serves_of_edit he rfl rfl rfl rfl (by rw [hunit]) (by rw [hunit]) (by rw [hunit]) hok.serves
      · rw [State.Progress, hunit]; exact hok.progress
      · exact State.ownsAt_of_eq (by rw [hunit]) rfl rfl State.owner_claimed_self hok.owns
  | read hread hissue hready =>
    have he : s.Edits ((s.claimed k u r.dst).haveRead u n r) u n { r with read := some s.cc } := State.edits_haveRead
    have hunit : ((s.claimed k u r.dst).haveRead u n r).unit u =
        { s.unit u with remaining := s.cfg.delay.get u.kind - 1 } := State.unit_haveRead_claimed hb.serving
    have hdelay := (Params.latenciesLegal_iff _).mp hs.latencies u.kind
    refine hs.visit_edit hb he rfl ?_ fun y v hv => State.owner_claimed_iff hv
    refine ⟨he.cc ▸ hstamps.setRead hread hissue, hissued, fun hidle => ?idle, fun _ => ?busy, fun y hy => ?entries⟩
    case idle => rw [hunit] at hidle; rw [hb.busy] at hidle; cases hidle
    case entries => rw [hunit]; exact hs.entries_claimed hb y hy
    case busy =>
      refine ⟨by rw [hunit]; exact hb.serving.1, ?_, ?_, ?_, by rw [hunit]; exact hok.producers⟩
      · exact State.serves_of_edit he rfl rfl rfl rfl (by rw [hunit]) (by rw [hunit]) (by rw [hunit]) hok.serves
      · rw [State.Progress, hunit]
        refine ⟨nofun, fun _ _ => Nat.sub_pos_of_lt hdelay, fun hsome => ?_⟩
        rw [show ({ r with read := some s.cc } : InstrRecord).exec = r.exec from rfl, hstamps.exec_of_read hread] at hsome
        cases hsome
      · have hready' := hs.owns_of_ready hb hready rfl
        unfold State.OwnsAt
        rw [hunit]
        split
        · next hst => rwa [if_pos hst] at hready'
        · next hst =>
          rw [if_neg hst] at hready'
          exact fun _ => hready'

/-! Execute. -/

theorem State.Mid.unfinished (hs : s.Mid) (hb : s.Busy k u n r) (hpos : 0 < (s.unit u).remaining) : r.exec = none := by
  obtain ⟨-, -, hdone⟩ := (hs.busyOk hb.busy hb.serving).progress
  cases hexec : r.exec with
  | none => rfl
  | some c =>
    obtain ⟨hzero, -⟩ := hdone (by rw [hexec]; rfl)
    omega

theorem isSome_of_before {t : Option Nat} {c : Nat} (h : before t c = true) : t.isSome := by
  obtain ⟨v, hv, -⟩ := (before_iff t c).mp h
  exact Option.isSome_iff_exists.mpr ⟨v, hv⟩

theorem State.edits_counted (v : Word) (m : Nat) : s.Edits (s.counted u n r v m) u n r :=
  State.edits_put _ _ rfl rfl rfl rfl rfl

theorem State.edits_completed (v : Word) (mem : Memory) :
    s.Edits ((s.setMem mem).completed u n r v) u n { r with exec := some s.cc } :=
  State.edits_put _ _ rfl rfl rfl rfl rfl

theorem State.unit_completed_setMem (hserv : s.Serving u n r) (v : Word) (mem : Memory) :
    ((s.setMem mem).completed u n r v).unit u = { s.unit u with result := some v, remaining := 0 } :=
  State.unit_completed (s := s.setMem mem) hserv v

theorem State.Mid.executeVisit (hs : s.Mid) (hb : s.Busy k u n r)
    (h : s.ExecuteVisit k u n r r.src0 r.src1 r.imm t) : t.Mid := by
  obtain ⟨hpidx, hdec, hstamps, hissued⟩ := hs.record hb.serving.2
  have hok := hs.busyOk hb.busy hb.serving
  cases h with
  | skip => exact hs
  | count v m hread hpos hv hm =>
    have he : s.Edits (s.counted u n r v m) u n r := State.edits_counted v m
    have hunit : (s.counted u n r v m).unit u = { s.unit u with result := some v, remaining := m } :=
      State.unit_counted hb.serving v m
    refine hs.visit_edit hb he rfl ?_ fun _ _ _ => Iff.rfl
    refine ⟨hstamps, hissued, fun hidle => ?idle, fun _ => ?busy, fun y hy => ?entries⟩
    case idle => rw [hunit] at hidle; rw [hb.busy] at hidle; cases hidle
    case entries => rw [hunit]; exact hs.scoreboard y u hy
    case busy =>
      refine ⟨by rw [hunit]; exact hb.serving.1, ?_, ?_, ?_, by rw [hunit]; exact hok.producers⟩
      · exact State.serves_of_edit he rfl rfl rfl rfl (by rw [hunit]) (by rw [hunit]) (by rw [hunit]) hok.serves
      · rw [State.Progress, hunit]
        refine ⟨fun hnone => ?_, fun _ _ => hm, fun hsome => ?_⟩
        · rw [hnone] at hread; cases hread
        · rw [hs.unfinished hb hpos] at hsome; cases hsome
      · exact State.ownsAt_of_eq (s := s) (by rw [hunit]) rfl rfl id hok.owns
  | complete v mem hread hone hv =>
    have he : s.Edits ((s.setMem mem).completed u n r v) u n { r with exec := some s.cc } :=
      State.edits_completed v mem
    have hunit : ((s.setMem mem).completed u n r v).unit u = { s.unit u with result := some v, remaining := 0 } :=
      State.unit_completed_setMem hb.serving v mem
    have hnone := hs.unfinished hb (by omega)
    refine hs.visit_edit hb he rfl ?_ fun _ _ _ => Iff.rfl
    refine ⟨hstamps.setExec hnone hread, hissued, fun hidle => ?idle, fun _ => ?busy, fun y hy => ?entries⟩
    case idle => rw [hunit] at hidle; rw [hb.busy] at hidle; cases hidle
    case entries => rw [hunit]; exact hs.scoreboard y u hy
    case busy =>
      refine ⟨by rw [hunit]; exact hb.serving.1, ?_, ?_, ?_, by rw [hunit]; exact hok.producers⟩
      · exact State.serves_of_edit he rfl rfl rfl rfl (by rw [hunit]) (by rw [hunit]) (by rw [hunit]) hok.serves
      · rw [State.Progress, hunit]
        refine ⟨fun hread' => ?_, nofun, fun _ => ⟨rfl, rfl⟩⟩
        rw [show r.read = none from hread'] at hread
        cases hread
      · exact State.ownsAt_of_eq (s := s) (by rw [hunit]) rfl rfl id hok.owns

/-! Write back. -/

theorem State.edits_retired (v : Word) :
    s.Edits ((s.delivered k u d v).retired u n r) u n { r with write := some s.cc } := by
  have hcc : (s.delivered k u d v).cc = s.cc := State.delivered_cc ..
  rw [State.retired, hcc]
  exact State.edits_put _ _ (State.delivered_cfg ..) (State.delivered_pc ..) hcc (State.delivered_pools ..)
    (State.delivered_queue ..)

theorem State.Mid.writeVisit (hs : s.Mid) (hb : s.Busy k u n r) (h : s.WriteVisit k u n r r.dst t) : t.Mid := by
  obtain ⟨hpidx, hdec, hstamps, hissued⟩ := hs.record hb.serving.2
  cases h with
  | skip => exact hs
  | retire v hexec =>
    have he : s.Edits ((s.delivered k u r.dst v).retired u n r) u n { r with write := some s.cc } :=
      State.edits_retired v
    have hunit : ((s.delivered k u r.dst v).retired u n r).unit u = FunctionalUnit.idle :=
      State.unit_retired_same (State.serving_delivered k r.dst hb.serving v)
    refine hs.visit_edit hb he rfl ?_ fun y v' hv => State.owner_delivered_iff v hv
    refine ⟨he.cc ▸ hstamps.setWrite hexec, hissued, fun _ => ⟨hunit, rfl⟩, fun hbusy => ?busy, fun y hy => ?entries⟩
    case busy => rw [hunit] at hbusy; cases hbusy
    case entries =>
      rw [State.owner_retired, State.owner_delivered] at hy
      split at hy
      · cases hy
      · next hkeep =>
        obtain ⟨rfl, hk⟩ := hs.dst_of_owner hb hy
        exact absurd ⟨hk, rfl, hy⟩ hkeep

/-! Clear busy. -/

theorem FunctionalUnit.producersOk_refreshed {f : FunctionalUnit} (h : f.ProducersOk) (o0 o1 : Option UnitId) :
    (f.refreshed o0 o1).ProducersOk := by
  obtain ⟨h0, h1⟩ := h
  constructor
  · cases o0 <;> simp [FunctionalUnit.refreshed, h0]
  · cases o1 <;> simp [FunctionalUnit.refreshed, h1]

theorem State.refreshReadiness_eq_put (hserv : s.Serving u n r) (a b : Reg) :
    s.refreshReadiness u a b = s.put u n ((s.unit u).refreshed (s.owner a) (s.owner b)) r := by
  rw [State.refreshReadiness_eq, State.updateUnit_eq_put hserv]

theorem State.edits_refreshReadiness (hserv : s.Serving u n r) (a b : Reg) :
    s.Edits (s.refreshReadiness u a b) u n r := by
  rw [State.refreshReadiness_eq_put hserv]
  exact State.edits_put _ _ rfl rfl rfl rfl rfl

theorem State.unit_refreshReadiness (hserv : s.Serving u n r) (a b : Reg) :
    (s.refreshReadiness u a b).unit u = (s.unit u).refreshed (s.owner a) (s.owner b) := by
  rw [State.refreshReadiness_eq_put hserv, State.unit_put_same _ _ (State.idx_lt_of_slot hserv.1)]

theorem State.Mid.clearVisit (hs : s.Mid) (hb : s.Busy k u n r) (a b : Reg) : (s.refreshReadiness u a b).Mid := by
  obtain ⟨hpidx, hdec, hstamps, hissued⟩ := hs.record hb.serving.2
  have hok := hs.busyOk hb.busy hb.serving
  have he : s.Edits (s.refreshReadiness u a b) u n r := State.edits_refreshReadiness hb.serving a b
  have hunit := State.unit_refreshReadiness hb.serving a b
  refine hs.visit_edit hb he rfl ?_ fun _ _ _ => Iff.rfl
  refine ⟨hstamps, hissued, fun hidle => ?idle, fun _ => ?busy, fun y hy => ?entries⟩
  case idle =>
    have hbusy := hb.busy
    rw [hunit] at hidle
    exact absurd hbusy (Bool.eq_false_iff.mp hidle)
  case entries => rw [hunit]; exact hs.scoreboard y u hy
  case busy =>
    refine ⟨by rw [hunit]; exact hb.serving.1, ?_, ?_, ?_, ?_⟩
    · exact State.serves_of_edit he rfl rfl rfl rfl (by rw [hunit]; rfl) (by rw [hunit]; rfl) (by rw [hunit]; rfl)
        hok.serves
    · rw [State.Progress, hunit]; exact hok.progress
    · exact State.ownsAt_of_eq (s := s) (by rw [hunit]; rfl) rfl rfl id hok.owns
    · rw [hunit]; exact FunctionalUnit.producersOk_refreshed hok.producers _ _

theorem State.keptByVisits_mid : KeptByVisits State.Mid := by
  intro s t u k n r hs hb h
  cases h with
  | read h => exact hs.readVisit hb h
  | execute h => exact hs.executeVisit hb h
  | write h => exact hs.writeVisit hb h
  | clear h => exact h ▸ hs.clearVisit hb r.src0 r.src1

theorem State.placeless_mid : Placeless State.Mid := fun _ st h => h.at st

/-! Issue. -/

theorem State.edits_issued (hrec : s.queue[n]? = some r) :
    s.Edits ((s.at (.issue u n)).issued k u n r.dst r.src0 r.src1) u n
      { r with issue := some s.cc, unit := some u.idx } where
  cfg := by rw [State.issued_frame]; rfl
  pc := by rw [State.issued_frame]; rfl
  cc := by rw [State.issued_frame]; rfl
  length _ := State.length_issued ..
  queue := State.issued_queue (s := s.at (.issue u n)) _ _ _ _ hrec
  unit_ne v hv := State.unit_issued_ne _ _ _ _ hv

/-- No busy unit serves a record that has not been issued. -/
theorem State.Mid.slot_ne_of_unissued (hs : s.Mid) (hrec : s.queue[n]? = some r) (hissue : r.issue = none)
    {v : UnitId} (hbusy : (s.unit v).busy = true) : (s.unit v).slot ≠ some n := by
  intro hslot
  obtain ⟨⟨hissue', -⟩, -⟩ := hs.busyOk hbusy ⟨hslot, hrec⟩
  rw [hissue] at hissue'
  cases hissue'

theorem State.Mid.issue (hs : s.Mid) (h : s.Issues u n r t) : t.Mid := by
  obtain ⟨hrec, hissue, hkind, hfree, -, rfl⟩ := h
  obtain ⟨hpidx, hdec, hstamps, hissued⟩ := hs.record hrec
  obtain ⟨-, hu, hidle, -⟩ := (State.freeUnit_eq_some_iff u).mp hfree
  have hread := hstamps.read_of_issue hissue
  have he : s.Edits ((s.at (.issue u n)).issued u.kind u n r.dst r.src0 r.src1) u n
      { r with issue := some s.cc, unit := some u.idx } := State.edits_issued hrec
  have hunit := State.unit_issued_same (s := s.at (.issue u n)) (n := n) r.dst r.src0 r.src1 u.kind hu
  have howner (y : Reg) : ((s.at (.issue u n)).issued u.kind u n r.dst r.src0 r.src1).owner y = some u →
      u.kind ≠ .st ∧ y = r.dst := by
    rw [State.owner_issued]
    split
    · next h => exact fun _ => ⟨h.1, h.2.1⟩
    · intro hy
      obtain ⟨hbusy, -⟩ := hs.scoreboard y u hy
      rw [hidle] at hbusy
      cases hbusy
  refine hs.edit he hrec rfl (fun hbusy => ?own) (fun v _ => hs.slot_ne_of_unissued hrec hissue) ?leaves
    fun y v hv => ?others
  case own => rw [hidle] at hbusy; cases hbusy
  case others =>
    rw [State.owner_issued]
    split
    · next h =>
      obtain ⟨-, rfl, hnone⟩ := h
      have hnone' : s.owner r.dst = none := hnone
      simp [hnone', hv.symm]
    · rfl
  case leaves =>
    refine ⟨he.cc ▸ hstamps.setIssue hissue _, rfl, fun hfalse => ?idle, fun _ => ?busy, fun y hy => ?entries⟩
    case idle => rw [hunit] at hfalse; cases hfalse
    case entries =>
      obtain ⟨hk, rfl⟩ := howner y hy
      rw [hunit]
      exact ⟨rfl, hk, rfl⟩
    case busy =>
      refine ⟨by rw [hunit]; rfl, ?_, ?_, ?_, ?_⟩
      · rw [State.Serves, hunit, he.cfg]
        exact ⟨rfl, hstamps.unwritten hissue, rfl, hkind, rfl, rfl, rfl⟩
      · rw [State.Progress, hunit]
        refine ⟨fun _ => ⟨rfl, rfl⟩, fun hsome => ?_, fun hsome => ?_⟩
        · rw [show ({ r with issue := some s.cc, unit := some u.idx } : InstrRecord).read = r.read from rfl, hread] at hsome
          cases hsome
        · rw [show ({ r with issue := some s.cc, unit := some u.idx } : InstrRecord).exec = r.exec from rfl,
            hstamps.exec_of_read hread] at hsome
          cases hsome
      · unfold State.OwnsAt
        rw [hunit, State.owner_issued]
        split
        · next hk => simp [State.issuedUnit, hk]
        · next hk =>
          rw [show ({ r with issue := some s.cc, unit := some u.idx } : InstrRecord).read = r.read from rfl, hread]
          intro hwaw
          have hfree : s.owner r.dst = none := by simpa [State.issuedUnit, hk] using hwaw
          exact if_pos ⟨hk, rfl, hfree⟩
      · rw [hunit]
        simp [FunctionalUnit.ProducersOk, State.issuedUnit]

end Visits

end Sys2Proof.Machine
end

section
/-! The fetch phase keeps the invariant inside a tick (41_queue_fetch.md R71 to R75): records close up and a fresh one is put
behind them. -/

namespace Sys2Proof.Machine

/-- An entry of a filtered list comes from a place before which as many entries pass the filter as its own index says. -/
theorem exists_getElem?_of_filter {α : Type} {p : α → Bool} {l : List α} {m : Nat} {a : α}
    (h : (l.filter p)[m]? = some a) : ∃ n, l[n]? = some a ∧ p a = true ∧ (l.take n).countP p = m := by
  induction l generalizing m with
  | nil => cases h
  | cons b rest ih =>
    by_cases hb : p b = true
    · rw [List.filter_cons_of_pos hb] at h
      cases m with
      | zero => cases h; exact ⟨0, rfl, hb, rfl⟩
      | succ m =>
        obtain ⟨n, hn, ha, hc⟩ := ih h
        exact ⟨n + 1, hn, ha, by rw [List.take_succ_cons, List.countP_cons_of_pos hb, hc]⟩
    · rw [List.filter_cons_of_neg hb] at h
      obtain ⟨n, hn, ha, hc⟩ := ih h
      exact ⟨n + 1, hn, ha, by rw [List.take_succ_cons, List.countP_cons_of_neg hb, hc]⟩

section Fetch

variable {s f : State} {u : UnitId} {n : Nat} {r : InstrRecord}

theorem State.mem_unitIds_compact : u ∈ s.compact.unitIds ↔ u ∈ s.unitIds := by
  rw [State.mem_unitIds, State.mem_unitIds, State.length_compact]

/-- A busy unit whose record is not written serves it after compaction as before (R73). -/
theorem State.serving_compact (hbusy : (s.unit u).busy = true) (hserv : s.Serving u n r) (hwrite : r.write = none) :
    s.compact.Serving u (keptBefore s.queue n) r := by
  refine ⟨by rw [State.unit_compact_of_serving hbusy hserv], ?_⟩
  exact getElem?_filter_keptBefore hserv.2 (Option.isNone_iff_eq_none.mpr hwrite)

theorem State.owner_compact (x : Reg) : s.compact.owner x = s.owner x := rfl

theorem State.Mid.compact (hs : s.Mid) : s.compact.Mid := by
  have hmem {r : InstrRecord} (hr : r ∈ s.compact.queue) : r ∈ s.queue := List.mem_of_mem_filter hr
  have hunit (u : UnitId) : ∃ m, s.compact.unit u = { s.unit u with slot := m } := s.unit_compact_eq u
  constructor
  case latencies => exact hs.latencies
  case length => exact (List.length_filter_le _ _).trans hs.length
  case cursor => exact hs.cursor
  case ordered => exact hs.ordered.filter _
  case records => exact fun r hr => hs.records r (hmem hr)
  case sizes => exact fun k => (s.length_compact k).trans (hs.sizes k)
  case idle =>
    intro u hu hidle
    obtain ⟨m, hm⟩ := hunit u
    have hidle' : (s.unit u).busy = false := by rwa [hm] at hidle
    rw [s.unit_compact u, FunctionalUnit.remap_of_idle s.queue hidle']
    exact hs.idle u (State.mem_unitIds_compact.mp hu) hidle'
  case serves =>
    intro u hu hbusy
    obtain ⟨m, hm⟩ := hunit u
    have hbusy' : (s.unit u).busy = true := by rwa [hm] at hbusy
    obtain ⟨n, r, hserv, hsv, hp, ho, hq⟩ := hs.serves u (State.mem_unitIds_compact.mp hu) hbusy'
    have ⟨_, hwrite, _⟩ := hsv
    refine ⟨keptBefore s.queue n, r, State.serving_compact hbusy' hserv hwrite, ?_⟩
    simp only [State.Serves, State.Progress, State.OwnsAt, hm, State.owner_compact, State.compact_cfg]
    exact ⟨hsv, hp, ho, hq⟩
  case served =>
    intro m r hr hissue hwrite
    obtain ⟨n, hn, -, hcount⟩ := exists_getElem?_of_filter hr
    obtain ⟨u, hu, hbusy, hslot⟩ := hs.served n r hn hissue hwrite
    refine ⟨u, State.mem_unitIds_compact.mpr hu, ?_, ?_⟩
    · obtain ⟨m, hm⟩ := hunit u
      rw [hm, hbusy]
    · rw [State.unit_compact_of_serving hbusy ⟨hslot, hn⟩, keptBefore, hcount]
  case scoreboard =>
    intro y v hv
    obtain ⟨m, hm⟩ := hunit v
    rw [hm]
    exact hs.scoreboard y v hv

/-- A fresh record put behind the queue, and the cursor moved on (R71, R74). -/
def State.append (s : State) (w : Word) : State :=
  { s with queue := s.queue ++ [newRecord w s.pc], pc := s.pc + 1 }

theorem State.fetchWord_compact_cases (s : State) (w : Word) :
    (s.compact.queue.length < queueSlots ∧ s.fetchWord w = s.compact.append w) ∨
      (queueSlots ≤ s.compact.queue.length ∧ s.fetchWord w = s.compact) := s.fetchWord_cases w

theorem newRecord_midOk (w : Word) (pc cc : Nat) : (newRecord w pc).MidOk (pc + 1) cc :=
  ⟨Nat.lt_succ_self pc, rfl, ⟨nofun, nofun, nofun, nofun, nofun, nofun, nofun⟩, rfl⟩

theorem State.Mid.append (hs : s.Mid) (w : Word) (hroom : s.queue.length < queueSlots)
    (hpc : s.pc < s.cfg.memWords) : (s.append w).Mid := by
  have hold {n : Nat} {r : InstrRecord} (hr : s.queue[n]? = some r) : (s.append w).queue[n]? = some r :=
    (List.getElem?_append_left (List.getElem?_eq_some_iff.mp hr).1).trans hr
  constructor
  case latencies => exact hs.latencies
  case length =>
    show (s.queue ++ [newRecord w s.pc]).length ≤ queueSlots
    rw [List.length_append]
    exact hroom
  case cursor => exact hpc
  case ordered =>
    refine List.pairwise_append.mpr ⟨hs.ordered, List.pairwise_singleton .., fun a ha b hb => ?_⟩
    rw [List.mem_singleton.mp hb]
    exact (hs.records a ha).1
  case records =>
    intro r hr
    obtain hr | hr := List.mem_append.mp hr
    · obtain ⟨hpidx, hrest⟩ := hs.records r hr
      exact ⟨hpidx.trans (Nat.lt_succ_self _), hrest⟩
    · rw [List.mem_singleton.mp hr]
      exact newRecord_midOk w s.pc s.cc
  case sizes => exact hs.sizes
  case idle => exact hs.idle
  case serves =>
    intro u hu hbusy
    obtain ⟨n, r, hserv, hrest⟩ := hs.serves u hu hbusy
    exact ⟨n, r, ⟨hserv.1, hold hserv.2⟩, hrest⟩
  case served =>
    intro n r hr hissue hwrite
    have hr' : (s.queue ++ [newRecord w s.pc])[n]? = some r := hr
    by_cases hn : n < s.queue.length
    · rw [List.getElem?_append_left hn] at hr'
      exact hs.served n r hr' hissue hwrite
    · rw [List.getElem?_append_right (Nat.le_of_not_lt hn)] at hr'
      rw [List.mem_singleton.mp (List.mem_of_getElem? hr')] at hissue
      cases hissue
  case scoreboard => exact hs.scoreboard

theorem State.Mid.fetch (hs : s.Mid) (h : s.Fetches f) : f.Mid := by
  cases h with
  | halted => exact hs
  | meetsHalt =>
    exact ⟨hs.latencies, hs.length, hs.cursor, hs.ordered, hs.records, hs.sizes, hs.idle, hs.serves, hs.served,
      hs.scoreboard⟩
  | queues st _ hpc =>
    have hc : (s.at st).compact.Mid := (hs.at st).compact
    obtain ⟨hroom, heq⟩ | ⟨-, heq⟩ := (s.at st).fetchWord_compact_cases (s.mem.read s.pc)
    · rw [heq]; exact hc.append _ hroom hpc
    · rw [heq]; exact hc

end Fetch

end Sys2Proof.Machine
end

section
/-! A phase that settles something for each unit as it visits it. -/

namespace Sys2Proof.Machine

theorem State.unitIds_nodup (s : State) : s.unitIds.Nodup := by
  refine List.nodup_flatMap.mpr ⟨fun k _ => ?_, ?_⟩
  · exact List.Nodup.map (fun i j h => congrArg UnitId.idx h) List.nodup_range
  · have hkinds : Kind.all.Pairwise (· ≠ ·) := by decide
    refine hkinds.imp fun {k k'} hne => ?_
    rw [Function.onFun, List.disjoint_left]
    rintro u hu hu'
    obtain ⟨i, -, rfl⟩ := List.mem_map.mp hu
    obtain ⟨j, -, hj⟩ := List.mem_map.mp hu'
    exact hne (congrArg UnitId.kind hj).symm

/-- What a phase's visit of a unit must do to turn `A` into `B` there: it settles `B` at its unit, spoils neither at another,
and keeps `Q`. An idle unit needs no visit. -/
structure Settles (V : PhaseVisit) (Q : State → Prop) (A B : State → UnitId → Prop) : Prop where
  placeless : Placeless Q
  placelessA : ∀ u, Placeless (A · u)
  placelessB : ∀ u, Placeless (B · u)
  idle : ∀ s u, Q s → (s.unit u).busy = false → A s u → B s u
  visit : ∀ s t k u n r, Q s → A s u → s.Busy k u n r → V s k u n r t → Q t ∧ B t u
  other : ∀ s t k u n r v, Q s → s.Busy k u n r → V s k u n r t → v ≠ u → (A s v → A t v) ∧ (B s v → B t v)

section Settle

variable {st : UnitId → Station} {V : PhaseVisit} {Q : State → Prop} {A B : State → UnitId → Prop}

theorem State.serve_settles (hst : Makes st V) (h : Settles V Q A B) {s t : State} {u : UnitId}
    (hserve : s.serve st u = .next t) (hQ : Q s) (hA : A s u) :
    Q t ∧ B t u ∧ ∀ v, v ≠ u → (A s v → A t v) ∧ (B s v → B t v) := by
  obtain ⟨hidle, rfl⟩ | ⟨k, n, r, hb, hexec⟩ := State.serve_busy_next hserve
  · exact ⟨hQ, h.idle _ u hQ hidle hA, fun v _ => ⟨id, id⟩⟩
  · have hb' : (s.at (st u)).Busy k u n r := ⟨hb.busy, hb.serving, hb.kind⟩
    have hQ' := h.placeless s (st u) hQ
    have hvisit := hst s t u k n r hb hexec
    obtain ⟨hQt, hBt⟩ := h.visit _ t k u n r hQ' (h.placelessA u s (st u) hA) hb' hvisit
    refine ⟨hQt, hBt, fun v hv => ?_⟩
    obtain ⟨hAv, hBv⟩ := h.other _ t k u n r v hQ' hb' hvisit hv
    exact ⟨hAv ∘ h.placelessA v s (st u), hBv ∘ h.placelessB v s (st u)⟩

theorem State.serveAll_settles (hst : Makes st V) (h : Settles V Q A B) :
    ∀ (us : List UnitId) (s t : State), us.Nodup → State.serveAll st us s = .next t → Q s → (∀ v ∈ us, A s v) →
      Q t ∧ (∀ v ∈ us, B t v) ∧ ∀ v, v ∉ us → B s v → B t v
  | [], s, t, _, hall, hQ, _ => by cases hall; exact ⟨hQ, nofun, fun _ _ => id⟩
  | u :: rest, s, t, hnodup, hall, hQ, hA => by
    obtain ⟨m, hm, hrest⟩ := andThen_next hall
    obtain ⟨hu, hnodup⟩ := List.nodup_cons.mp hnodup
    obtain ⟨hQm, hBm, hother⟩ := State.serve_settles hst h hm hQ (hA u (List.mem_cons_self ..))
    have hne {v : UnitId} (hv : v ∈ rest) : v ≠ u := fun heq => hu (heq ▸ hv)
    obtain ⟨hQt, hBt, hkeep⟩ := State.serveAll_settles hst h rest m t hnodup hrest hQm
      fun v hv => (hother v (hne hv)).1 (hA v (List.mem_cons_of_mem u hv))
    refine ⟨hQt, List.forall_mem_cons.mpr ⟨hkeep u hu hBm, hBt⟩, fun v hv hBs => ?_⟩
    obtain ⟨hvu, hv⟩ := not_or.mp (mt List.mem_cons.mpr hv)
    exact hkeep v hv ((hother v hvu).2 hBs)

theorem State.unitPhase_settles (hst : Makes st V) (h : Settles V Q A B) {s t : State}
    (hphase : State.unitPhase st s = .next t) (hQ : Q s) (hA : ∀ v ∈ s.unitIds, A s v) :
    Q t ∧ ∀ v ∈ s.unitIds, B t v := by
  obtain ⟨hQt, hBt, -⟩ := State.serveAll_settles hst h s.unitIds s t s.unitIds_nodup hphase hQ hA
  exact ⟨hQt, hBt⟩

end Settle

end Sys2Proof.Machine
end

section
/-! Pending producers (10_state.md R117; 46_clear_busy.md R115): whatever the write-back phase releases, the clear-busy phase
raises every flag whose register is free by then. -/

namespace Sys2Proof.Machine

section Pending

variable {s t : State} {k : Kind} {u : UnitId} {n : Nat} {r : InstrRecord}

theorem State.unitIds_of_length (h : ∀ k, (t.pools.get k).length = (s.pools.get k).length) : t.unitIds = s.unitIds := by
  simp only [State.unitIds, h]

/-- The clear-busy visit of a unit leaves it no missing flag without a pending producer. -/
theorem State.pendingAt_refreshReadiness (hs : s.Mid) (hb : s.Busy k u n r) :
    (s.refreshReadiness u r.src0 r.src1).PendingAt u := by
  obtain ⟨⟨-, -, -, -, -, hsrc0, hsrc1⟩, -⟩ := hs.busyOk hb.busy hb.serving
  intro _
  rw [State.refreshReadiness_eq, State.unit_updateUnit_same _ (State.idx_lt_of_slot hb.serving.1)]
  refine ⟨fun h0 => ⟨r.src0, hsrc0, ?_⟩, fun h1 => ⟨r.src1, hsrc1, ?_⟩⟩
  · rw [State.owner_updateUnit, Option.isSome_iff_ne_none]
    intro hnone
    simp [FunctionalUnit.refreshed, hnone] at h0
  · rw [State.owner_updateUnit, Option.isSome_iff_ne_none]
    intro hnone
    simp [FunctionalUnit.refreshed, hnone] at h1

/-- The clear-busy phase settles the pending producers unit by unit. -/
theorem settles_pending : Settles (fun s _ u _ r t => t = s.refreshReadiness u r.src0 r.src1) State.Mid
    (fun _ _ => True) State.PendingAt where
  placeless := State.placeless_mid
  placelessA _ _ _ h := h
  placelessB _ _ _ h := h
  idle s u _ hidle _ hbusy := by rw [hidle] at hbusy; cases hbusy
  visit := by
    rintro s t k u n r hs - hb rfl
    exact ⟨hs.clearVisit hb _ _, State.pendingAt_refreshReadiness hs hb⟩
  other := by
    rintro s t k u n r v - hb rfl hv
    refine ⟨id, fun hpending => ?_⟩
    simp only [State.PendingAt, State.refreshReadiness_eq, State.unit_updateUnit_ne _ _ hv.symm, State.owner_updateUnit]
    exact hpending

end Pending

/-- The states inside a tick that starts with the invariant. -/
theorem State.Inv.tick_mid {s f i b : State} (hs : s.Inv) (hlat : s.cfg.latenciesLegal = true) (hf : s.Fetches f)
    (hi : i = f ∨ ∃ n r u, f.Issues u n r i) (hb : i.unitPhases = .next b) : f.Mid ∧ i.Mid ∧ b.Mid := by
  have hfm := (hs.mid hlat).fetch hf
  have him : i.Mid := by
    obtain rfl | ⟨n, r, u, h⟩ := hi
    · exact hfm
    · exact hfm.issue h
  exact ⟨hfm, him, State.unitPhases_keep State.placeless_mid State.keptByVisits_mid hb him⟩

/-- A property that issue and visits keep, given the invariant inside the tick, is kept from the fetch phase to the end. -/
theorem State.Mid.tick_keeps {P : State → Prop} (hat : Placeless P)
    (hissue : ∀ (s t : State) u n r, s.Mid → P s → s.Issues u n r t → P t)
    (hvisit : ∀ (s t : State) u k n r, s.Mid → P s → s.Busy k u n r →
      s.Visit k u n r r.dst r.src0 r.src1 r.imm t → P t)
    {f i b : State} (hf : f.Mid) (hi : i = f ∨ ∃ n r u, f.Issues u n r i) (hb : i.unitPhases = .next b) (hP : P f) :
    P b := by
  have hissued : i.Mid ∧ P i := by
    obtain rfl | ⟨n, r, u, h⟩ := hi
    · exact ⟨hf, hP⟩
    · exact ⟨hf.issue h, hissue f i u n r hf hP h⟩
  have hkept : KeptByVisits fun s => s.Mid ∧ P s := fun s t u k n r hs hbusy hv =>
    ⟨State.keptByVisits_mid s t u k n r hs.1 hbusy hv, hvisit s t u k n r hs.1 hs.2 hbusy hv⟩
  exact (State.unitPhases_keep (fun s st hs => ⟨hs.1.at st, hat s st hs.2⟩) hkept hb hissued).2

/-- At the end of the unit phases every missing flag has its producer pending. -/
theorem State.Mid.allPending_of_unitPhases {i b : State} (hi : i.Mid) (h : i.unitPhases = .next b) : b.AllPending := by
  have hsame := State.sameFetch_of_unitPhases h
  obtain ⟨r, e, w, hr, he, hw, hb⟩ := State.unitPhases_next h
  have hrm := State.unitPhase_keeps_prop makes_readOperands State.placeless_mid
    (fun s t u k n r hs hb hv => hs.readVisit hb hv) hr hi
  have hem := State.unitPhase_keeps_prop makes_execute State.placeless_mid
    (fun s t u k n r hs hb hv => hs.executeVisit hb hv) he hrm
  have hwm := State.unitPhase_keeps_prop makes_writeBack State.placeless_mid
    (fun s t u k n r hs hb hv => hs.writeVisit hb hv) hw hem
  obtain ⟨-, hpending⟩ := State.unitPhase_settles makes_clearBusy settles_pending hb hwm fun _ _ => trivial
  intro v _ hbusy
  have hw' : v ∈ w.unitIds := by
    have hbw := State.sameFetch_of_phase makes_clearBusy .clear hb
    rw [← State.unitIds_of_length hbw.length]
    exact State.mem_unitIds_of_busy hbusy
  exact hpending v hw' hbusy

/-- Settles O45: each phase keeps the invariant inside the tick, and the clear-busy phase restores its last clause. -/
theorem stepKeepsTheInvariant : Obligations.StepKeepsTheInvariant := by
  intro s t hs h
  have hmem := stepKeepsMemoryCanonical s t hs.memory h
  obtain ⟨hlat, -⟩ := step_next h
  obtain ⟨-, rfl⟩ | ⟨-, f, i, b, hf, hi, hb, rfl⟩ := step_parts h
  · exact hs
  · obtain ⟨-, him, hbm⟩ := hs.tick_mid hlat hf hi hb
    exact hbm.inv_endTick (him.allPending_of_unitPhases hb) (State.memoryOk_of_eq hmem (by simp) (by simp))

end Sys2Proof.Machine
end

section
/-! What a step does to the queue and the instruction trace: a visit sets at most one timestamp of its record. -/

namespace Sys2Proof.Machine

/-- A visit of a busy unit as its record and the instruction trace see it. -/
inductive State.RecordVisit (s : State) (k : Kind) (n : Nat) (r : InstrRecord) (t : State) : Prop
  | keep (hqueue : t.queue = s.queue) (htrace : t.instrTrace = s.instrTrace)
  | read (hnone : r.read = none) (hqueue : t.queue = s.queue.set n { r with read := some s.cc })
      (htrace : t.instrTrace = s.instrTrace)
  | exec (hnone : r.exec = none) (hstore : k = .st → s.collidingLoads r.imm r.issue = 0)
      (hqueue : t.queue = s.queue.set n { r with exec := some s.cc }) (htrace : t.instrTrace = s.instrTrace)
  | write (hexec : r.exec.isSome) (hnone : r.write = none)
      (hqueue : t.queue = s.queue.set n { r with write := some s.cc })
      (htrace : t.instrTrace = insertTrace ({ r with write := some s.cc }.traceRecord s.cfg.opcodes) s.instrTrace)

/-- Record `x` is `r` with timestamps added (R20(b)). -/
structure InstrRecord.Grows (r x : InstrRecord) : Prop where
  fetched : x.fetched = r.fetched
  issue : ∀ v ∈ r.issue, x.issue = some v
  read : ∀ v ∈ r.read, x.read = some v
  exec : ∀ v ∈ r.exec, x.exec = some v
  write : ∀ v ∈ r.write, x.write = some v

theorem InstrRecord.Grows.refl (r : InstrRecord) : r.Grows r := ⟨rfl, fun _ => id, fun _ => id, fun _ => id, fun _ => id⟩

theorem InstrRecord.Grows.trans {r x y : InstrRecord} (h : r.Grows x) (h' : x.Grows y) : r.Grows y :=
  ⟨h'.fetched.trans h.fetched, fun v hv => h'.issue v (h.issue v hv), fun v hv => h'.read v (h.read v hv),
    fun v hv => h'.exec v (h.exec v hv), fun v hv => h'.write v (h.write v hv)⟩

section Records

variable {s t f : State} {k : Kind} {u : UnitId} {n : Nat} {r : InstrRecord}

theorem State.Mid.recordVisit (hs : s.Mid) (hb : s.Busy k u n r)
    (h : s.Visit k u n r r.dst r.src0 r.src1 r.imm t) : s.RecordVisit k n r t := by
  have hclaimed : (s.claimed k u r.dst).instrTrace = s.instrTrace := by rw [State.claimed_frame]
  cases h with
  | read h =>
    cases h with
    | skip => exact .keep rfl rfl
    | wait => exact .keep (State.claimed_queue ..) hclaimed
    | read hread =>
      refine .read hread ?_ hclaimed
      rw [State.haveRead, State.put_queue, State.claimed_queue, State.claimed_cc]
  | execute h =>
    cases h with
    | skip => exact .keep rfl rfl
    | count => exact .keep (set_self_of_get hb.serving.2) rfl
    | complete v mem _ hone _ _ hstore =>
      exact .exec (hs.unfinished hb (by omega)) (fun hk => (hstore hk).2.2 (hs.kind_eq hb ▸ hk)) rfl rfl
  | write h =>
    cases h with
    | skip => exact .keep rfl rfl
    | retire v hexec =>
      obtain ⟨-, hwrite, -⟩ := (hs.busyOk hb.busy hb.serving).serves
      refine .write (isSome_of_before hexec) hwrite ?_ ?_
      · rw [State.retired, State.put_queue, State.enter_queue, State.delivered_queue, State.delivered_cc]
      · rw [State.retired, State.put_instrTrace, State.enter_instrTrace, State.delivered_instrTrace,
          State.delivered_cc, State.delivered_cfg]
  | clear h => exact .keep (h ▸ s.refreshReadiness_queue u _ _) (h ▸ s.refreshReadiness_instrTrace u _ _)

/-- A visit adds a timestamp to its record or none, and never that of issue. -/
theorem State.RecordVisit.grows (hrec : s.queue[n]? = some r) (h : s.RecordVisit k n r t) :
    ∃ x, t.queue = s.queue.set n x ∧ r.Grows x ∧ x.issue = r.issue := by
  cases h with
  | keep hqueue => exact ⟨r, by rw [hqueue, set_self_of_get hrec], .refl r, rfl⟩
  | read hnone hqueue =>
    refine ⟨_, hqueue, ⟨rfl, fun _ => id, fun v hv => ?_, fun _ => id, fun _ => id⟩, rfl⟩
    rw [hnone] at hv; cases hv
  | exec hnone _ hqueue =>
    refine ⟨_, hqueue, ⟨rfl, fun _ => id, fun _ => id, fun v hv => ?_, fun _ => id⟩, rfl⟩
    rw [hnone] at hv; cases hv
  | write _ hnone hqueue =>
    refine ⟨_, hqueue, ⟨rfl, fun _ => id, fun _ => id, fun _ => id, fun v hv => ?_⟩, rfl⟩
    rw [hnone] at hv; cases hv

/-- An issue sets the issue timestamp and the unit of its record. -/
theorem State.Issues.queue_eq (h : s.Issues u n r t) :
    t.queue = s.queue.set n { r with issue := some s.cc, unit := some u.idx } := by
  obtain ⟨hrec, -, -, -, -, rfl⟩ := h
  exact State.issued_queue (s := s.at (.issue u n)) _ _ _ _ hrec

theorem State.Issues.instrTrace_eq (h : s.Issues u n r t) : t.instrTrace = s.instrTrace := by
  obtain ⟨-, -, -, -, -, rfl⟩ := h
  rw [State.issued_frame]
  rfl

theorem State.Issues.grows (h : s.Issues u n r t) :
    r.Grows { r with issue := some s.cc, unit := some u.idx } := by
  refine ⟨rfl, fun v hv => ?_, fun _ => id, fun _ => id, fun _ => id⟩
  rw [h.unissued] at hv
  cases hv

/-- A record that is not the one replaced stays in the list. -/
theorem mem_set_of_ne {α : Type} {l : List α} {n : Nat} {a b x : α} (ha : a ∈ l) (hb : l[n]? = some b) (hne : a ≠ b) :
    a ∈ l.set n x := by
  obtain ⟨m, hm⟩ := List.mem_iff_getElem?.mp ha
  have hmn : n ≠ m := by
    rintro rfl
    exact hne (Option.some.inj (hm.symm.trans hb))
  exact List.mem_iff_getElem?.mpr ⟨m, by rw [List.getElem?_set_ne hmn, hm]⟩

theorem mem_set_self {α : Type} {l : List α} {n : Nat} {b x : α} (hb : l[n]? = some b) : x ∈ l.set n x :=
  List.mem_set (List.getElem?_eq_some_iff.mp hb).1 x

/-- Every record lives on in a queue in which one record has grown. -/
theorem exists_grows_set {q : List InstrRecord} {x y : InstrRecord} (hrec : q[n]? = some r) (hx : r.Grows x)
    (hy : y ∈ q) : ∃ z ∈ q.set n x, y.Grows z := by
  by_cases hyr : y = r
  · exact ⟨x, mem_set_self hrec, hyr ▸ hx⟩
  · exact ⟨y, mem_set_of_ne hy hrec hyr, .refl y⟩

/-- No two records of the queue have the same program index (R20(e)). -/
theorem State.Mid.eq_of_pidx (hs : s.Mid) {x y : InstrRecord} (hx : x ∈ s.queue) (hy : y ∈ s.queue)
    (h : x.pidx = y.pidx) : x = y := by
  have hnodup : (s.queue.map InstrRecord.pidx).Nodup := List.pairwise_map.mpr (hs.ordered.imp Nat.ne_of_lt)
  exact List.inj_on_of_nodup_map hnodup hx hy h

/-- What the fetch phase keeps of the queue, and what it drops (R72). -/
theorem State.Fetches.mem_queue (h : s.Fetches f) (hr : r ∈ s.queue) (hwrite : r.write = none) : r ∈ f.queue := by
  cases h with
  | halted => exact hr
  | meetsHalt => exact hr
  | queues st =>
    have hkept : r ∈ (s.at st).compact.queue :=
      List.mem_filter.mpr ⟨hr, Option.isNone_iff_eq_none.mpr hwrite⟩
    obtain ⟨-, heq⟩ | ⟨-, heq⟩ := (s.at st).fetchWord_compact_cases (s.mem.read s.pc)
    · rw [heq]; exact List.mem_append_left _ hkept
    · rw [heq]; exact hkept

/-- The queue after the fetch phase: as it was, or its unwritten records, or these and a fresh one. -/
theorem State.Fetches.queue_cases (h : s.Fetches f) :
    (f.queue = s.queue ∧ f.pc = s.pc) ∨ (f.queue = s.queue.filter InstrRecord.kept ∧ f.pc = s.pc) ∨
      (f.queue = s.queue.filter InstrRecord.kept ++ [newRecord (s.mem.read s.pc) s.pc] ∧ f.pc = s.pc + 1) := by
  cases h with
  | halted => exact .inl ⟨rfl, rfl⟩
  | meetsHalt => exact .inl ⟨rfl, rfl⟩
  | queues st =>
    obtain ⟨-, heq⟩ | ⟨-, heq⟩ := (s.at st).fetchWord_compact_cases (s.mem.read s.pc)
    · exact .inr (.inr ⟨by rw [heq]; rfl, by rw [heq]; rfl⟩)
    · exact .inr (.inl ⟨by rw [heq]; rfl, by rw [heq]; rfl⟩)

/-- The queue after the rest of a tick, from the fetch phase on: every record lives on and grows. -/
theorem State.Mid.exists_grows {i b : State} (hf : f.Mid) (hi : i = f ∨ ∃ n r u, f.Issues u n r i)
    (hb : i.unitPhases = .next b) {y : InstrRecord} (hy : y ∈ f.queue) : ∃ z ∈ b.queue, y.Grows z := by
  refine State.Mid.tick_keeps (P := fun s => ∃ z ∈ s.queue, y.Grows z) (fun _ _ h => h) ?issue ?visit hf hi hb
    ⟨y, hy, .refl y⟩
  case issue =>
    rintro s t u n r - ⟨z, hz, hgrows⟩ h
    obtain ⟨w, hw, hzw⟩ := exists_grows_set h.record h.grows hz
    exact ⟨w, h.queue_eq ▸ hw, hgrows.trans hzw⟩
  case visit =>
    rintro s t u k n r hs ⟨z, hz, hgrows⟩ hbusy hv
    obtain ⟨x, hqueue, hx, -⟩ := (hs.recordVisit hbusy hv).grows hbusy.serving.2
    obtain ⟨w, hw, hzw⟩ := exists_grows_set hbusy.serving.2 hx hz
    exact ⟨w, hqueue ▸ hw, hgrows.trans hzw⟩

theorem State.SameFetch.exists_pidx (h : f.SameFetch t) {x : InstrRecord} (hx : x ∈ t.queue) :
    ∃ y ∈ f.queue, y.pidx = x.pidx := by
  have hmem : x.fetched ∈ f.queue.map InstrRecord.fetched := h.words ▸ List.mem_map_of_mem hx
  obtain ⟨y, hy, hyx⟩ := List.mem_map.mp hmem
  exact ⟨y, hy, InstrRecord.pidx_of_fetched hyx⟩

theorem State.SameFetch.symm (h : s.SameFetch t) : t.SameFetch s :=
  ⟨⟨h.cfg.symm, h.cc.symm, h.unitTrace.symm, fun k => (h.length k).symm⟩, h.pc.symm, h.haltReached.symm, h.words.symm⟩

/-- The fetch phase keeps a record or, if it is written, drops it and no other of its program index. -/
theorem State.Mid.fetch_keeps_or_drops (hs : s.Mid) (h : s.Fetches f) (hr : r ∈ s.queue) :
    r ∈ f.queue ∨ r.write.isSome ∧ ∀ x ∈ f.queue, x.pidx ≠ r.pidx := by
  cases hwrite : r.write with
  | none => exact .inl (h.mem_queue hr hwrite)
  | some v =>
    have hdropped : ∀ x ∈ s.queue.filter InstrRecord.kept, x.pidx ≠ r.pidx := by
      intro x hx hpidx
      obtain ⟨hx, hkept⟩ := List.mem_filter.mp hx
      have hnone : x.write = none := Option.isNone_iff_eq_none.mp hkept
      rw [hs.eq_of_pidx hx hr hpidx, hwrite] at hnone
      cases hnone
    obtain ⟨hqueue, -⟩ | ⟨hqueue, -⟩ | ⟨hqueue, -⟩ := h.queue_cases
    · exact .inl (hqueue ▸ hr)
    · exact .inr ⟨rfl, hqueue ▸ hdropped⟩
    · refine .inr ⟨rfl, fun x hx => ?_⟩
      rw [hqueue] at hx
      obtain hx | hx := List.mem_append.mp hx
      · exact hdropped x hx
      · rw [List.mem_singleton.mp hx]
        exact Nat.ne_of_gt (hs.records r hr).1

end Records

/-- Settles O52: the fetch phase keeps or drops a record, and each later part of the tick only adds timestamps to it. -/
theorem timestampsNeverChange : Obligations.TimestampsNeverChange := by
  intro s t hs h r hr
  obtain ⟨hlat, -⟩ := step_next h
  obtain ⟨-, rfl⟩ | ⟨-, f, i, b, hf, hi, hb, rfl⟩ := step_parts h
  · exact .inr ⟨r, hr, rfl, rfl, fun _ => id, fun _ => id, fun _ => id, fun _ => id⟩
  · have hsm := hs.mid hlat
    have hsame := (State.sameFetch_of_issue hi).trans (State.sameFetch_of_unitPhases hb)
    rw [State.endTick_queue]
    obtain hkept | ⟨hwrite, hgone⟩ := hsm.fetch_keeps_or_drops hf hr
    · obtain ⟨x, hx, hgrows⟩ := (hsm.fetch hf).exists_grows hi hb hkept
      have hword : x.fetched.word = r.fetched.word := by rw [hgrows.fetched]
      exact .inr ⟨x, hx, InstrRecord.pidx_of_fetched hgrows.fetched, hword, hgrows.issue, hgrows.read, hgrows.exec,
        hgrows.write⟩
    · refine .inl ⟨hwrite, fun x hx => ?_⟩
      obtain ⟨y, hy, hpidx⟩ := hsame.exists_pidx hx
      exact hpidx ▸ hgone y hy

/-! A record that can never issue (30_encoding.md R55, 49_halt.md R137). -/

/-- A record whose opcode has no kind is not the one that an issue or a visit changes. -/
theorem State.mem_queue_of_no_kind {i b f : State} {r : InstrRecord} (hr : r ∈ f.queue)
    (hkind : f.cfg.opcodes.kindOf r.opcode = none) (hf : f.Mid) (hi : i = f ∨ ∃ n r u, f.Issues u n r i)
    (hb : i.unitPhases = .next b) : r ∈ b.queue := by
  have hne {x : InstrRecord} {k : Kind} {m : OpcodeMap} (hx : m.kindOf x.opcode = some k)
      (hr : m.kindOf r.opcode = none) : r ≠ x := by
    rintro rfl
    rw [hr] at hx
    cases hx
  refine (State.Mid.tick_keeps (P := fun s => s.cfg.opcodes.kindOf r.opcode = none ∧ r ∈ s.queue) (fun _ _ h => h)
    ?issue ?visit hf hi hb ⟨hkind, hr⟩).2
  case issue =>
    rintro s t u n x - ⟨hkind, hr⟩ h
    exact ⟨h.sameFetch.cfg ▸ hkind, h.queue_eq ▸ mem_set_of_ne hr h.record (hne h.kind hkind)⟩
  case visit =>
    rintro s t u k n x hs ⟨hkind, hr⟩ hbusy hv
    obtain ⟨y, hqueue, -⟩ := (hs.recordVisit hbusy hv).grows hbusy.serving.2
    refine ⟨(hv.sameFetch hbusy.serving).cfg ▸ hkind, ?_⟩
    exact hqueue ▸ mem_set_of_ne hr hbusy.serving.2 (hne hbusy.kind hkind)

theorem State.not_done_of_mem {s : State} {r : InstrRecord} (hr : r ∈ s.queue) (hwrite : r.write = none) :
    s.done = false := by
  rw [← Bool.not_eq_true, State.done_iff]
  rintro ⟨-, hall⟩
  have hsome := hall r hr
  rw [hwrite] at hsome
  cases hsome

/-- Settles O53: such a record is unwritten, so it is not dropped, and no issue or visit is of it. -/
theorem undefinedRecordStaysForEver : Obligations.UndefinedRecordStaysForEver := by
  intro s t hs h r hr hissue hkind
  obtain ⟨hlat, -⟩ := step_next h
  have hsm := hs.mid hlat
  obtain ⟨-, -, hstamps, -⟩ := hsm.records r hr
  have hwrite := hstamps.unwritten hissue
  obtain ⟨-, rfl⟩ | ⟨-, f, i, b, hf, hi, hb, rfl⟩ := step_parts h
  · exact ⟨hr, State.not_done_of_mem hr hwrite⟩
  · have hmem : r ∈ b.endTick.queue := by
      rw [State.endTick_queue]
      exact State.mem_queue_of_no_kind (hf.mem_queue hr hwrite) (hf.sameRun.cfg ▸ hkind) (hsm.fetch hf) hi hb
    exact ⟨hmem, State.not_done_of_mem hmem hwrite⟩

end Sys2Proof.Machine
end

section
/-! The instruction trace (60_exceptions.md R152): entered at write-back, in ascending program index. -/

namespace Sys2Proof.Machine

section Insert

variable {x y : TraceRecord} {l : List TraceRecord}

theorem mem_insertTrace_self (x : TraceRecord) (l : List TraceRecord) : x ∈ insertTrace x l := by
  induction l with
  | nil => exact List.mem_singleton.mpr rfl
  | cons a rest ih =>
    unfold insertTrace
    split_ifs
    · exact List.mem_cons_self ..
    · exact List.mem_cons_self ..
    · exact List.mem_cons_of_mem a ih

theorem mem_of_mem_insertTrace (h : y ∈ insertTrace x l) : y = x ∨ y ∈ l := by
  induction l with
  | nil => exact .inl (List.mem_singleton.mp h)
  | cons a rest ih =>
    unfold insertTrace at h
    split_ifs at h
    · exact List.mem_cons.mp h
    · exact (List.mem_cons.mp h).imp id (List.mem_cons_of_mem a)
    · obtain rfl | h := List.mem_cons.mp h
      · exact .inr (List.mem_cons_self ..)
      · exact (ih h).imp id (List.mem_cons_of_mem a)

theorem mem_insertTrace_of_ne (hy : y ∈ l) (hne : y.pidx ≠ x.pidx) : y ∈ insertTrace x l := by
  induction l with
  | nil => cases hy
  | cons a rest ih =>
    unfold insertTrace
    obtain rfl | hy := List.mem_cons.mp hy
    · split_ifs with hlt heq
      · exact List.mem_cons_of_mem x (List.mem_cons_self ..)
      · exact absurd heq.symm hne
      · exact List.mem_cons_self ..
    · split_ifs
      · exact List.mem_cons_of_mem x (List.mem_cons_of_mem a hy)
      · exact List.mem_cons_of_mem x hy
      · exact List.mem_cons_of_mem a (ih hy)

theorem pairwise_insertTrace (h : l.Pairwise fun a b => a.pidx < b.pidx) :
    (insertTrace x l).Pairwise fun a b => a.pidx < b.pidx := by
  induction l with
  | nil => exact List.pairwise_singleton ..
  | cons a rest ih =>
    obtain ⟨ha, hrest⟩ := List.pairwise_cons.mp h
    unfold insertTrace
    split_ifs with hlt heq
    · refine List.pairwise_cons.mpr ⟨fun b hb => ?_, h⟩
      obtain rfl | hb := List.mem_cons.mp hb
      · exact hlt
      · exact hlt.trans (ha b hb)
    · exact List.pairwise_cons.mpr ⟨fun b hb => heq ▸ ha b hb, hrest⟩
    · refine List.pairwise_cons.mpr ⟨fun b hb => ?_, ih hrest⟩
      obtain rfl | hb := mem_of_mem_insertTrace hb
      · omega
      · exact ha b hb

end Insert

section Trace

variable {s t f : State} {k : Kind} {u : UnitId} {n : Nat} {r x : InstrRecord}

theorem exists_pidx_set {q : List InstrRecord} {p : Nat} (hrec : q[n]? = some r) (hx : x.fetched = r.fetched)
    (h : ∃ y ∈ q, y.pidx = p) : ∃ y ∈ q.set n x, y.pidx = p := by
  obtain ⟨y, hy, rfl⟩ := h
  by_cases hyr : y = r
  · exact ⟨x, mem_set_self hrec, hyr ▸ InstrRecord.pidx_of_fetched hx⟩
  · exact ⟨y, mem_set_of_ne hy hrec hyr, rfl⟩

/-- A record that stays unwritten and a trace that stays as it is. -/
theorem State.TraceOk.set_unwritten (hs : s.TraceOk) (hrec : s.queue[n]? = some r)
    (hqueue : t.queue = s.queue.set n x) (hx : x.fetched = r.fetched) (hwrite : x.write = none)
    (hcfg : t.cfg = s.cfg) (hpc : t.pc = s.pc) (htrace : t.instrTrace = s.instrTrace) : t.TraceOk := by
  refine ⟨htrace ▸ hs.ascending, ?_, ?_, ?_⟩
  · rw [htrace, hpc]; exact hs.complete
  · rw [htrace, hcfg, hqueue]
    intro y hy hsome
    obtain hy | rfl := List.mem_or_eq_of_mem_set hy
    · exact hs.written y hy hsome
    · rw [hwrite] at hsome; cases hsome
  · rw [htrace, hpc, hqueue]
    exact fun p hp => (hs.accounted p hp).imp (exists_pidx_set hrec hx) id

/-- The write-back of a record, which enters the trace with all four timestamps. -/
theorem State.TraceOk.set_written (hs : s.TraceOk) (hmid : s.Mid) (hrec : s.queue[n]? = some r)
    (hexec : r.exec.isSome) (hwrite : r.write = none) (hcfg : t.cfg = s.cfg) (hpc : t.pc = s.pc)
    (hqueue : t.queue = s.queue.set n { r with write := some s.cc })
    (htrace : t.instrTrace = insertTrace ({ r with write := some s.cc }.traceRecord s.cfg.opcodes) s.instrTrace) :
    t.TraceOk := by
  have hr : r ∈ s.queue := List.mem_of_getElem? hrec
  obtain ⟨hpidx, -, ⟨hread', hexec', -⟩, -⟩ := hmid.record hrec
  have hread : r.read.isSome := hexec'.isSome hexec
  refine ⟨?_, ?_, ?_, ?_⟩
  · rw [htrace]; exact pairwise_insertTrace hs.ascending
  · rw [htrace, hpc]
    intro y hy
    obtain rfl | hy := mem_of_mem_insertTrace hy
    · exact ⟨hpidx, hread'.isSome hread, hread, hexec, rfl⟩
    · exact hs.complete y hy
  · rw [htrace, hcfg, hqueue]
    intro y hy hsome
    obtain hy | rfl := List.mem_or_eq_of_mem_set hy
    · refine mem_insertTrace_of_ne (hs.written y hy hsome) fun heq => ?_
      rw [hmid.eq_of_pidx hy hr heq, hwrite] at hsome
      cases hsome
    · exact mem_insertTrace_self ..
  · rw [htrace, hpc, hqueue]
    intro p hp
    obtain hq | ⟨y, hy, rfl⟩ := hs.accounted p hp
    · exact .inl (exists_pidx_set hrec rfl hq)
    · by_cases hyr : y.pidx = r.pidx
      · exact .inl ⟨_, mem_set_self hrec, hyr.symm⟩
      · exact .inr ⟨y, mem_insertTrace_of_ne hy hyr, rfl⟩

theorem State.TraceOk.visit (hs : s.TraceOk) (hmid : s.Mid) (hb : s.Busy k u n r)
    (h : s.Visit k u n r r.dst r.src0 r.src1 r.imm t) : t.TraceOk := by
  have hsame := h.sameFetch hb.serving
  have hrec := hb.serving.2
  obtain ⟨-, hwrite, -⟩ := (hmid.busyOk hb.busy hb.serving).serves
  cases hmid.recordVisit hb h with
  | keep hqueue htrace =>
    exact hs.set_unwritten hrec (by rw [hqueue, set_self_of_get hrec]) rfl hwrite hsame.cfg hsame.pc htrace
  | read _ hqueue htrace => exact hs.set_unwritten hrec hqueue rfl hwrite hsame.cfg hsame.pc htrace
  | exec _ _ hqueue htrace => exact hs.set_unwritten hrec hqueue rfl hwrite hsame.cfg hsame.pc htrace
  | write hexec _ hqueue htrace =>
    exact hs.set_written hmid hrec hexec hwrite hsame.cfg hsame.pc hqueue htrace

theorem State.TraceOk.issue (hs : s.TraceOk) (hmid : s.Mid) (h : s.Issues u n r t) : t.TraceOk := by
  have hsame := h.sameFetch
  obtain ⟨-, -, hstamps, -⟩ := hmid.record h.record
  exact hs.set_unwritten h.record h.queue_eq rfl (hstamps.unwritten h.unissued) hsame.cfg hsame.pc h.instrTrace_eq

theorem State.Fetches.instrTrace_eq (h : s.Fetches f) : f.instrTrace = s.instrTrace := by
  cases h with
  | halted => rfl
  | meetsHalt => rfl
  | queues st => exact State.fetchWord_instrTrace ..

/-- A written record that compaction drops is in the trace, so every fetched instruction stays accounted for. -/
theorem State.TraceOk.accounted_kept (hs : s.TraceOk) {p : Nat} (hp : p < s.pc) :
    (∃ r ∈ s.queue.filter InstrRecord.kept, r.pidx = p) ∨ ∃ y ∈ s.instrTrace, y.pidx = p := by
  obtain ⟨r, hr, rfl⟩ | htrace := hs.accounted p (List.mem_range.mpr hp)
  · cases hwrite : r.write with
    | none => exact .inl ⟨r, List.mem_filter.mpr ⟨hr, Option.isNone_iff_eq_none.mpr hwrite⟩, rfl⟩
    | some v => exact .inr ⟨_, hs.written r hr (by rw [hwrite]; rfl), rfl⟩
  · exact .inr htrace

theorem State.TraceOk.fetch (hs : s.TraceOk) (h : s.Fetches f) : f.TraceOk := by
  have htrace := h.instrTrace_eq
  have hcfg := h.sameRun.cfg
  have hkept {r : InstrRecord} (hr : r ∈ s.queue.filter InstrRecord.kept) : r ∈ s.queue := List.mem_of_mem_filter hr
  obtain ⟨hqueue, hpc⟩ | ⟨hqueue, hpc⟩ | ⟨hqueue, hpc⟩ := h.queue_cases
  · refine ⟨htrace ▸ hs.ascending, ?_, ?_, ?_⟩
    · rw [htrace, hpc]; exact hs.complete
    · rw [htrace, hcfg, hqueue]; exact hs.written
    · rw [htrace, hpc, hqueue]; exact hs.accounted
  · refine ⟨htrace ▸ hs.ascending, ?_, ?_, ?_⟩
    · rw [htrace, hpc]; exact hs.complete
    · rw [htrace, hcfg, hqueue]; exact fun r hr => hs.written r (hkept hr)
    · rw [htrace, hpc, hqueue]; exact fun p hp => hs.accounted_kept (List.mem_range.mp hp)
  · refine ⟨htrace ▸ hs.ascending, ?_, ?_, ?_⟩
    · rw [htrace, hpc]
      exact fun y hy => ⟨(hs.complete y hy).1.trans (Nat.lt_succ_self _), (hs.complete y hy).2⟩
    · rw [htrace, hcfg, hqueue]
      intro r hr hsome
      obtain hr | hr := List.mem_append.mp hr
      · exact hs.written r (hkept hr) hsome
      · rw [List.mem_singleton.mp hr] at hsome; cases hsome
    · rw [htrace, hpc, hqueue]
      intro p hp
      obtain hp | rfl := Nat.lt_succ_iff_lt_or_eq.mp (List.mem_range.mp hp)
      · exact (hs.accounted_kept hp).imp (fun ⟨r, hr, hpidx⟩ => ⟨r, List.mem_append_left _ hr, hpidx⟩) id
      · exact .inl ⟨_, List.mem_append_right _ (List.mem_singleton.mpr rfl), rfl⟩

theorem State.TraceOk.endTick (hs : s.TraceOk) : s.endTick.TraceOk := by
  constructor
  case ascending => rw [State.endTick_instrTrace]; exact hs.ascending
  case complete => rw [State.endTick_instrTrace, State.endTick_pc]; exact hs.complete
  case written => rw [State.endTick_instrTrace, State.endTick_queue, State.endTick_cfg]; exact hs.written
  case accounted => rw [State.endTick_instrTrace, State.endTick_queue, State.endTick_pc]; exact hs.accounted

end Trace

/-- Settles O47: fetch and issue leave the trace alone, and a visit does so or enters a record with all timestamps. -/
theorem stepKeepsTheTraceComplete : Obligations.StepKeepsTheTraceComplete := by
  intro s t hs htrace h
  obtain ⟨hlat, -⟩ := step_next h
  obtain ⟨-, rfl⟩ | ⟨-, f, i, b, hf, hi, hb, rfl⟩ := step_parts h
  · exact htrace
  · exact (State.Mid.tick_keeps (P := State.TraceOk) (fun _ _ hp => ⟨hp.1, hp.2, hp.3, hp.4⟩)
      (fun _ _ _ _ _ hmid hp h => hp.issue hmid h) (fun _ _ _ _ _ _ hmid hp hbusy hv => hp.visit hmid hbusy hv)
      ((hs.mid hlat).fetch hf) hi hb (htrace.fetch hf)).endTick

/-- Settles O54: with every queued record written, the trace alone accounts for what has been fetched. -/
theorem doneTraceHasEveryInstruction : Obligations.DoneTraceHasEveryInstruction := by
  intro s hs htrace hdone
  obtain ⟨-, hall⟩ := (State.done_iff s).mp hdone
  have hsorted : (s.instrTrace.map (·.pidx)).Pairwise (· < ·) := List.pairwise_map.mpr htrace.ascending
  refine hsorted.eq_of_mem_iff List.pairwise_lt_range fun p => ?_
  rw [List.mem_map, List.mem_range]
  constructor
  · rintro ⟨y, hy, rfl⟩
    exact (htrace.complete y hy).1
  · intro hp
    obtain ⟨r, hr, rfl⟩ | h := htrace.accounted p (List.mem_range.mpr hp)
    · exact ⟨_, htrace.written r hr (hall r hr), rfl⟩
    · exact h

end Sys2Proof.Machine
end

section
/-! The one memory ordering that the hardware enforces (20_memory.md R47): a store does not complete while an earlier-issued
load of its address is incomplete, because R103 counts that load. -/

namespace Sys2Proof.Machine

/-- R47 for one store and one load. -/
abbrev LoadFirst (m : OpcodeMap) (st l : InstrRecord) : Prop :=
  m.kindOf st.opcode = some .st → m.kindOf l.opcode = some .ld → l.imm = st.imm →
    ∀ ti ∈ l.issue, ∀ tj ∈ st.issue, ti < tj → ∀ b ∈ st.exec, ∃ a ∈ l.exec, a ≤ b

section Order

variable {s t f : State} {k : Kind} {u : UnitId} {n : Nat} {r x : InstrRecord}

/-- A queue in which one record `r` became `x`: the pairs with `x` remain to be shown. -/
theorem State.LoadsBeforeStores.set (hs : s.LoadsBeforeStores) (hqueue : t.queue = s.queue.set n x)
    (hcfg : t.cfg = s.cfg) (hstore : ∀ l ∈ s.queue, LoadFirst s.cfg.opcodes x l)
    (hload : ∀ st ∈ s.queue, LoadFirst s.cfg.opcodes st x) : t.LoadsBeforeStores := by
  intro st hst l hl hkst hkl
  rw [hcfg] at hkst hkl
  rw [hqueue] at hst hl
  obtain hst' | rfl := List.mem_or_eq_of_mem_set hst
  · obtain hl' | rfl := List.mem_or_eq_of_mem_set hl
    · exact hs st hst' l hl' hkst hkl
    · exact hload st hst' hkst hkl
  · obtain hl' | rfl := List.mem_or_eq_of_mem_set hl
    · exact hstore l hl' hkst hkl
    · rw [hkst] at hkl
      cases hkl

/-- A record that keeps its issue and completion stamps keeps its order. -/
theorem State.LoadsBeforeStores.set_of_eq (hs : s.LoadsBeforeStores) (hrec : s.queue[n]? = some r)
    (hqueue : t.queue = s.queue.set n x) (hcfg : t.cfg = s.cfg) (hx : x.fetched = r.fetched)
    (hissue : x.issue = r.issue) (hexec : x.exec = r.exec) : t.LoadsBeforeStores := by
  have himm : x.fetched.imm = r.fetched.imm := by rw [hx]
  have himm' : x.imm = r.imm := himm
  have hr : r ∈ s.queue := List.mem_of_getElem? hrec
  refine hs.set hqueue hcfg (fun l hl => ?_) fun st hst => ?_
  · rw [LoadFirst, InstrRecord.opcode_of_fetched hx, himm', hissue, hexec]
    exact hs r hr l hl
  · rw [LoadFirst, InstrRecord.opcode_of_fetched hx, himm', hissue, hexec]
    exact hs st hst r hr

/-- An issued load that has not completed and was issued before the store collides with it (R103). -/
theorem State.Mid.collidingLoads_pos (hs : s.Mid) {l : InstrRecord} {ti tj : Nat} (hl : l ∈ s.queue)
    (hkind : s.cfg.opcodes.kindOf l.opcode = some .ld) (hissue : l.issue = some ti) (hexec : l.exec = none)
    (hlt : ti < tj) : 0 < s.collidingLoads l.imm (some tj) := by
  obtain ⟨m, hm⟩ := List.mem_iff_getElem?.mp hl
  obtain ⟨-, -, hstamps, -⟩ := hs.records l hl
  obtain ⟨⟨vk, j⟩, hv, hbusy, hslot⟩ := hs.served m l hm (by rw [hissue]; rfl) (hstamps.write_of_exec hexec)
  have hserv : s.Serving ⟨vk, j⟩ m l := ⟨hslot, hm⟩
  obtain ⟨-, -, -, hkind', -⟩ := (hs.busyOk hbusy hserv).serves
  have hvk : vk = .ld := Option.some.inj (hkind'.symm.trans hkind)
  subst hvk
  unfold State.collidingLoads
  refine List.length_pos_of_mem (a := j) (List.mem_filter.mpr ⟨List.mem_range.mpr (State.idx_lt_of_busy hbusy), ?_⟩)
  simp [hbusy, State.inst_of_serving hserv, hissue, hexec, hlt]

/-- The completion of a record: a store completes after every colliding load, and a load before no completed store. -/
theorem State.LoadsBeforeStores.complete (hs : s.LoadsBeforeStores) (hmid : s.Mid) (hrec : s.queue[n]? = some r)
    (hqueue : t.queue = s.queue.set n { r with exec := some s.cc }) (hcfg : t.cfg = s.cfg) (hnone : r.exec = none)
    (hfree : s.cfg.opcodes.kindOf r.opcode = some .st → s.collidingLoads r.imm r.issue = 0) :
    t.LoadsBeforeStores := by
  have hr : r ∈ s.queue := List.mem_of_getElem? hrec
  refine hs.set hqueue hcfg ?store ?load
  case store =>
    intro l hl hkst hkl himm ti hti tj htj hlt b hb
    obtain rfl : s.cc = b := Option.some.inj hb
    have himm' : l.imm = r.imm := himm
    have htj' : r.issue = some tj := htj
    cases hexec : l.exec with
    | none =>
      have hpos := hmid.collidingLoads_pos hl hkl hti hexec hlt
      rw [himm', ← htj', hfree hkst] at hpos
      cases hpos
    | some a =>
      obtain ⟨-, -, ⟨-, -, -, -, -, hpast, -⟩, -⟩ := hmid.records l hl
      exact ⟨a, rfl, Nat.le_of_lt_succ (hpast a hexec)⟩
  case load =>
    intro st hst hkst hkl himm ti hti tj htj hlt b hb
    obtain ⟨a, ha, -⟩ := hs st hst r hr hkst hkl himm ti hti tj htj hlt b hb
    rw [hnone] at ha
    cases ha

theorem State.LoadsBeforeStores.visit (hs : s.LoadsBeforeStores) (hmid : s.Mid) (hb : s.Busy k u n r)
    (h : s.Visit k u n r r.dst r.src0 r.src1 r.imm t) : t.LoadsBeforeStores := by
  have hcfg := (h.sameFetch hb.serving).cfg
  have hrec := hb.serving.2
  cases hmid.recordVisit hb h with
  | keep hqueue => exact hs.set_of_eq hrec (by rw [hqueue, set_self_of_get hrec]) hcfg rfl rfl rfl
  | read _ hqueue => exact hs.set_of_eq hrec hqueue hcfg rfl rfl rfl
  | exec hnone hstore hqueue =>
    exact hs.complete hmid hrec hqueue hcfg hnone fun hk => hstore (Option.some.inj (hb.kind.symm.trans hk))
  | write _ _ hqueue => exact hs.set_of_eq hrec hqueue hcfg rfl rfl rfl

/-- An issue in the running cycle is before no store that is issued. -/
theorem State.LoadsBeforeStores.issue (hs : s.LoadsBeforeStores) (hmid : s.Mid) (h : s.Issues u n r t) :
    t.LoadsBeforeStores := by
  obtain ⟨-, -, hstamps, -⟩ := hmid.record h.record
  have hexec := hstamps.exec_of_read (hstamps.read_of_issue h.unissued)
  refine hs.set h.queue_eq h.sameFetch.cfg ?store ?load
  case store =>
    intro l hl _ _ _ ti _ tj _ _ b hb
    have hb' : r.exec = some b := hb
    rw [hexec] at hb'
    cases hb'
  case load =>
    intro st hst _ _ _ ti hti tj htj hlt
    obtain rfl : s.cc = ti := Option.some.inj hti
    obtain ⟨-, -, ⟨-, -, -, hpast, -⟩, -⟩ := hmid.records st hst
    exact absurd (hpast tj htj) (by omega)

theorem State.LoadsBeforeStores.fetch (hs : s.LoadsBeforeStores) (h : s.Fetches f) : f.LoadsBeforeStores := by
  have hstamped {r : InstrRecord} (hr : r ∈ f.queue) : r ∈ s.queue ∨ r.issue = none := by
    obtain ⟨hqueue, -⟩ | ⟨hqueue, -⟩ | ⟨hqueue, -⟩ := h.queue_cases
    · exact .inl (hqueue ▸ hr)
    · exact .inl (List.mem_of_mem_filter (hqueue ▸ hr))
    · obtain hr | hr := List.mem_append.mp (hqueue ▸ hr)
      · exact .inl (List.mem_of_mem_filter hr)
      · exact .inr (by rw [List.mem_singleton.mp hr]; rfl)
  intro st hst l hl hkst hkl himm ti hti tj htj
  rw [h.sameRun.cfg] at hkst hkl
  obtain hst | hnone := hstamped hst
  · obtain hl | hnone := hstamped hl
    · exact hs st hst l hl hkst hkl himm ti hti tj htj
    · rw [hnone] at hti; cases hti
  · rw [hnone] at htj; cases htj

end Order

/-- Settles O49: only a completion can break the order, and R103 keeps a store from completing before such a load. -/
theorem stepKeepsLoadsBeforeStores : Obligations.StepKeepsLoadsBeforeStores := by
  intro s t hs horder h
  obtain ⟨hlat, -⟩ := step_next h
  obtain ⟨-, rfl⟩ | ⟨-, f, i, b, hf, hi, hb, rfl⟩ := step_parts h
  · exact horder
  · have hend := State.Mid.tick_keeps (P := State.LoadsBeforeStores) (fun _ _ hp => hp)
      (fun _ _ _ _ _ hmid hp h => State.LoadsBeforeStores.issue hp hmid h)
      (fun _ _ _ _ _ _ hmid hp hbusy hv => State.LoadsBeforeStores.visit hp hmid hbusy hv)
      ((hs.mid hlat).fetch hf) hi hb (State.LoadsBeforeStores.fetch horder hf)
    rw [State.LoadsBeforeStores, State.endTick_queue, State.endTick_cfg]
    exact hend

end Sys2Proof.Machine
end

section
/-! Issue in program order (42_issue.md R88): under `in_order` an issue passes over no unissued record, and only an issue sets
the stamp of issue. -/

namespace Sys2Proof.Machine

section InOrder

variable {s t f i b : State} {u : UnitId} {n : Nat} {r : InstrRecord}

/-- R88 for an older record `a` and a younger one `b`. -/
abbrev IssuedFirst (a b : InstrRecord) : Prop := ∀ tb ∈ b.issue, ∃ ta ∈ a.issue, ta < tb

theorem issuedFirst_of_unissued {a b : InstrRecord} (h : b.issue = none) : IssuedFirst a b := by
  intro tb htb
  rw [h] at htb
  cases htb

theorem State.IssuedInOrder.fetch (hs : s.IssuedInOrder) (h : s.Fetches f) : f.IssuedInOrder := by
  obtain ⟨hqueue, -⟩ | ⟨hqueue, -⟩ | ⟨hqueue, -⟩ := h.queue_cases
  · rw [State.IssuedInOrder, hqueue]
    exact hs
  · rw [State.IssuedInOrder, hqueue]
    exact hs.filter _
  · rw [State.IssuedInOrder, hqueue]
    refine List.pairwise_append.mpr ⟨hs.filter _, List.pairwise_singleton .., fun a _ b hb => ?_⟩
    rw [List.mem_singleton.mp hb]
    exact issuedFirst_of_unissued rfl

/-- The issue of a record before which all are issued, in a later cycle than they. -/
theorem State.IssuedInOrder.issue (hs : s.IssuedInOrder) (h : s.Issues u n r t) (hpolicy : s.cfg.policy = .inOrder)
    (hpast : ∀ x ∈ s.queue, InThePast x.issue s.cc) : t.IssuedInOrder := by
  rw [State.IssuedInOrder, h.queue_eq, List.pairwise_iff_getElem]
  rw [State.IssuedInOrder, List.pairwise_iff_getElem] at hs
  obtain ⟨hn, hrec⟩ := List.getElem?_eq_some_iff.mp h.record
  intro p q hp' hq' hpq
  have hp : p < s.queue.length := List.length_set ▸ hp'
  have hq : q < s.queue.length := List.length_set ▸ hq'
  by_cases hqn : q = n
  · subst hqn
    rw [List.getElem_set_self, List.getElem_set_ne (Nat.ne_of_gt hpq)]
    intro tb htb
    obtain rfl : s.cc = tb := Option.some.inj htb
    obtain hissued | ⟨hfit, -⟩ := h.before s.queue[p] (List.mem_take_iff_getElem.mpr ⟨p, by omega, rfl⟩)
    · obtain ⟨ta, hta⟩ := Option.isSome_iff_exists.mp hissued
      exact ⟨ta, hta, hpast _ (List.getElem_mem hp) ta hta⟩
    · rw [hpolicy] at hfit; cases hfit
  · rw [List.getElem_set_ne (Ne.symm hqn)]
    by_cases hpn : p = n
    · subst hpn
      intro tb htb
      obtain ⟨ta, hta, -⟩ := hs p q hp hq hpq tb htb
      rw [hrec, h.unissued] at hta
      cases hta
    · rw [List.getElem_set_ne (Ne.symm hpn)]
      exact hs p q hp hq hpq

/-- The unit phases keep every stamp of issue. -/
theorem State.Mid.issue_stamps (hi : i.Mid) (hb : i.unitPhases = .next b) :
    b.queue.map InstrRecord.issue = i.queue.map InstrRecord.issue := by
  have hkept : KeptByVisits fun s => s.Mid ∧ s.queue.map InstrRecord.issue = i.queue.map InstrRecord.issue := by
    rintro s t u k n r ⟨hs, heq⟩ hbusy hv
    obtain ⟨x, hqueue, -, hissue⟩ := (hs.recordVisit hbusy hv).grows hbusy.serving.2
    have hget : (s.queue.map InstrRecord.issue)[n]? = some r.issue := by
      rw [List.getElem?_map, hbusy.serving.2]
      rfl
    refine ⟨State.keptByVisits_mid s t u k n r hs hbusy hv, ?_⟩
    rw [hqueue, List.map_set, hissue, set_self_of_get hget, heq]
  exact (State.unitPhases_keep (fun _ st h => ⟨h.1.at st, h.2⟩) hkept hb ⟨hi, rfl⟩).2

/-- R88 speaks of the stamps of issue alone. -/
theorem State.issuedInOrder_iff (s : State) :
    s.IssuedInOrder ↔ (s.queue.map InstrRecord.issue).Pairwise fun a b => ∀ tb ∈ b, ∃ ta ∈ a, ta < tb :=
  (List.pairwise_map (f := InstrRecord.issue) (R := fun a b => ∀ tb ∈ b, ∃ ta ∈ a, ta < tb)).symm

/-- Between ticks no record has been issued in the coming cycle, and a fetched one has not been issued at all. -/
theorem State.Inv.issued_before (hs : s.Inv) (h : s.Fetches f) {x : InstrRecord} (hx : x ∈ f.queue) :
    InThePast x.issue f.cc := by
  rw [h.sameRun.cc]
  have hold {x : InstrRecord} (hx : x ∈ s.queue) : InThePast x.issue s.cc := by
    obtain ⟨-, -, -, hrecords⟩ := hs.queue
    obtain ⟨-, -, ⟨-, -, -, hpast, -⟩, -⟩ := hrecords x hx
    exact hpast
  obtain ⟨hqueue, -⟩ | ⟨hqueue, -⟩ | ⟨hqueue, -⟩ := h.queue_cases
  · exact hold (hqueue ▸ hx)
  · exact hold (List.mem_of_mem_filter (hqueue ▸ hx))
  · obtain hx | hx := List.mem_append.mp (hqueue ▸ hx)
    · exact hold (List.mem_of_mem_filter hx)
    · rw [List.mem_singleton.mp hx]
      exact inThePast_none s.cc

end InOrder

/-- Settles O50: fetch appends an unissued record, the issue follows all older ones, and no visit is an issue. -/
theorem stepKeepsIssueOrder : Obligations.StepKeepsIssueOrder := by
  intro s t hs hpolicy horder h
  obtain ⟨hlat, -⟩ := step_next h
  obtain ⟨-, rfl⟩ | ⟨-, f, i, b, hf, hi, hb, rfl⟩ := step_parts h
  · exact horder
  · obtain ⟨-, him, -⟩ := hs.tick_mid hlat hf hi hb
    have hfetch : f.IssuedInOrder := State.IssuedInOrder.fetch horder hf
    have hissue : i.IssuedInOrder := by
      obtain rfl | ⟨n, r, u, h⟩ := hi
      · exact hfetch
      · exact State.IssuedInOrder.issue hfetch h (hf.sameRun.cfg ▸ hpolicy) fun x hx => hs.issued_before hf hx
    rw [State.issuedInOrder_iff, State.endTick_queue, him.issue_stamps hb, ← State.issuedInOrder_iff]
    exact hissue

end Sys2Proof.Machine
end

section
/-! No stop but the end of memory (40_pipeline_controller.md R60, 10_state.md R14): with the invariant inside the tick every
visit answers a next state. -/

namespace Sys2Proof.Machine

section Progress

variable {s : State} {k : Kind} {u : UnitId} {n : Nat} {r : InstrRecord}

/-- With all 4096 addresses in memory, nothing that an instruction computes is refused. -/
theorem State.exists_computed (s : State) (k : Kind) (a b : Reg) (imm : Addr) (hmem : 4096 ≤ s.cfg.memWords) :
    ∃ v, s.computed k a b imm = .ok v := by
  cases k with
  | ld => exact ⟨_, State.memRead_of_lt (imm.isLt.trans_le hmem)⟩
  | add => exact ⟨_, rfl⟩
  | sub => exact ⟨_, rfl⟩
  | mul => exact ⟨_, rfl⟩
  | div => exact ⟨_, rfl⟩
  | st => exact ⟨_, rfl⟩

theorem State.exists_complete (hserv : s.Serving u n r) (imm : Addr) (v : Word) (hmem : 4096 ≤ s.cfg.memWords) :
    ∃ t, State.complete k u imm (s.counted u n r v 0) = .next t := by
  by_cases hk : k = .st
  · subst hk
    by_cases hfree : (s.counted u n r v 0).collidingLoads imm r.issue = 0
    · exact ⟨_, State.complete_store_of_free imm hserv v hfree (imm.isLt.trans_le hmem)⟩
    · exact ⟨_, State.complete_store_of_bump imm hserv v (Nat.pos_of_ne_zero hfree)⟩
  · exact ⟨_, State.complete_writer k imm hk hserv v⟩

variable (d a b : Reg) (imm : Addr)

theorem exists_exec_readOperands (hst : s.station = .readOperands u) (hserv : s.Serving u n r) :
    ∃ t, exec (.ofKind k d a b imm) s = .next t := by
  cases hread : r.read with
  | some c => exact ⟨s, exec_readOperands_of_read k d a b imm hst hserv (by rw [hread]; rfl)⟩
  | none => exact ⟨_, exec_readOperands_of_unread k d a b imm hst hserv hread⟩

theorem exists_exec_execute (hst : s.station = .execute u) (hserv : s.Serving u n r) (hmem : 4096 ≤ s.cfg.memWords) :
    ∃ t, exec (.ofKind k d a b imm) s = .next t := by
  cases hguard : before r.read s.cc && decide (0 < (s.unit u).remaining) with
  | false => exact ⟨s, exec_execute_of_guard_false k d a b imm hst hserv hguard⟩
  | true =>
    rw [Bool.and_eq_true, decide_eq_true_eq] at hguard
    obtain ⟨w, hw⟩ := s.exists_computed k a b imm hmem
    obtain ⟨v, hv⟩ : ∃ v, s.Stages u (s.computed k a b imm) v := by
      obtain hv | ⟨-, e, he⟩ := s.exists_stages u (s.computed k a b imm)
      · exact hv
      · rw [hw] at he; cases he
    rw [exec_execute_of_stages k d a b imm ⟨hst, hserv, hguard.1, hguard.2⟩ hv]
    split
    · exact State.exists_complete hserv imm v hmem
    · exact ⟨_, rfl⟩

theorem State.Mid.exists_exec_writeBack (hs : s.Mid) (hst : s.station = .writeBack u)
    (hbusy : (s.unit u).busy = true) (hserv : s.Serving u n r) : ∃ t, exec (.ofKind k d a b imm) s = .next t := by
  cases hguard : before r.exec s.cc && decide ((s.unit u).remaining = 0) with
  | false => exact ⟨s, exec_writeBack_of_guard_false k d a b imm hst hserv hguard⟩
  | true =>
    rw [Bool.and_eq_true, decide_eq_true_eq] at hguard
    obtain ⟨hexec, hzero⟩ := hguard
    obtain ⟨-, -, hdone⟩ := (hs.busyOk hbusy hserv).progress
    obtain ⟨v, hv⟩ := Option.isSome_iff_exists.mp (hdone (isSome_of_before hexec)).2
    exact ⟨_, (exec_writeBack_of_cycle k d a b imm ⟨hst, hserv, hexec, hzero⟩).trans
      (State.commit_of_result k d hserv (.inr hv))⟩

end Progress

/-- Station `st` is one at which a busy unit is always served, given the invariant and all addresses. -/
def AlwaysServes (st : UnitId → Station) : Prop :=
  ∀ s k u n r, s.Mid → 4096 ≤ s.cfg.memWords → s.Busy k u n r → s.station = st u →
    ∃ t, exec (.ofKind k r.dst r.src0 r.src1 r.imm) s = .next t

/-- What a phase needs of its states to go on. -/
def State.Roomy (s : State) : Prop := s.Mid ∧ 4096 ≤ s.cfg.memWords

theorem State.Roomy.visit {s t : State} {k : Kind} {u : UnitId} {n : Nat} {r : InstrRecord} (hs : s.Roomy)
    (hb : s.Busy k u n r) (h : s.Visit k u n r r.dst r.src0 r.src1 r.imm t) : t.Roomy :=
  ⟨State.keptByVisits_mid s t u k n r hs.1 hb h, (h.sameFetch hb.serving).cfg ▸ hs.2⟩

section Phases

variable {st : UnitId → Station} {V : PhaseVisit}

theorem State.exists_serve (hserves : AlwaysServes st) {s : State} (hs : s.Roomy) (u : UnitId) :
    ∃ t, s.serve st u = .next t := by
  cases hbusy : (s.unit u).busy with
  | false => exact ⟨s, State.serve_of_idle st hbusy⟩
  | true =>
    obtain ⟨n, r, hserv, ⟨-, -, -, hkind, -⟩, -⟩ := hs.1.serves u (State.mem_unitIds_of_busy hbusy) hbusy
    rw [State.serve_of_serving hbusy hserv hkind]
    exact hserves (s.at (st u)) u.kind u n r (hs.1.at _) hs.2 ⟨hbusy, hserv, hkind⟩ rfl

theorem State.exists_serveAll (hst : Makes st V) (hserves : AlwaysServes st)
    (hvisit : ∀ (s t : State) u k n r, s.Roomy → s.Busy k u n r → V s k u n r t → t.Roomy) :
    ∀ (us : List UnitId) (s : State), s.Roomy → ∃ t, State.serveAll st us s = .next t
  | [], s, _ => ⟨s, rfl⟩
  | u :: rest, s, hs => by
    obtain ⟨m, hm⟩ := State.exists_serve hserves hs u
    have hmroomy : m.Roomy := by
      obtain ⟨-, rfl⟩ | ⟨k, n, r, hb, hexec⟩ := State.serve_busy_next hm
      · exact hs
      · exact hvisit (s.at (st u)) m u k n r ⟨hs.1.at _, hs.2⟩ ⟨hb.busy, hb.serving, hb.kind⟩
          (hst s m u k n r hb hexec)
    obtain ⟨t, ht⟩ := State.exists_serveAll hst hserves hvisit rest m hmroomy
    exact ⟨t, by rw [State.serveAll, hm, andThen_of_next, ht]⟩

/-- A phase of a roomy state answers a roomy state. -/
theorem State.exists_unitPhase (hst : Makes st V) (hserves : AlwaysServes st)
    (hvisit : ∀ (s t : State) u k n r, s.Roomy → s.Busy k u n r → V s k u n r t → t.Roomy) {s : State} (hs : s.Roomy) :
    ∃ t, State.unitPhase st s = .next t ∧ t.Roomy := by
  obtain ⟨t, ht⟩ := State.exists_serveAll hst hserves hvisit s.unitIds s hs
  exact ⟨t, ht, State.unitPhase_keeps_prop hst (fun _ _ h => ⟨h.1.at _, h.2⟩) hvisit ht hs⟩

end Phases

theorem State.exists_unitPhases {s : State} (hs : s.Roomy) : ∃ t, s.unitPhases = .next t := by
  obtain ⟨r, hr, hrr⟩ := State.exists_unitPhase makes_readOperands
    (fun _ _ _ _ r _ _ hb hst => exists_exec_readOperands r.dst r.src0 r.src1 r.imm hst hb.serving)
    (fun _ _ _ _ _ _ hs hb h => hs.visit hb (.read h)) hs
  obtain ⟨e, he, her⟩ := State.exists_unitPhase makes_execute
    (fun _ _ _ _ r _ hmem hb hst => exists_exec_execute r.dst r.src0 r.src1 r.imm hst hb.serving hmem)
    (fun _ _ _ _ _ _ hs hb h => hs.visit hb (.execute h)) hrr
  obtain ⟨w, hw, hwr⟩ := State.exists_unitPhase makes_writeBack
    (fun _ _ _ _ r hm _ hb hst => hm.exists_exec_writeBack r.dst r.src0 r.src1 r.imm hst hb.busy hb.serving)
    (fun _ _ _ _ _ _ hs hb h => hs.visit hb (.write h)) her
  obtain ⟨b, hb, -⟩ := State.exists_unitPhase makes_clearBusy
    (fun _ k _ _ r _ _ _ hst => ⟨_, exec_clearBusy k r.dst r.src0 r.src1 r.imm hst⟩)
    (fun _ _ _ _ _ _ hs hb h => hs.visit hb (.clear h)) hwr
  exact ⟨b, by rw [State.unitPhases, hr, andThen_of_next, he, andThen_of_next, hw, andThen_of_next, hb]⟩

/-- The phases after the fetch phase never stop. -/
theorem State.exists_afterFetch {f : State} (hf : f.Roomy) : ∃ t, f.afterFetch = .next t := by
  obtain ⟨i, hi⟩ := f.exists_issueScan_next f.queue 0
  have hir : i.Roomy := by
    obtain ⟨rfl, -⟩ | ⟨n, r, u, h⟩ := State.issuePhase_next hi
    · exact hf
    · exact ⟨hf.1.issue h, h.sameFetch.cfg ▸ hf.2⟩
  obtain ⟨b, hb⟩ := State.exists_unitPhases hir
  have hissue : f.issuePhase = .next i := hi
  exact ⟨b.endTick, by rw [State.afterFetch_eq_unitPhases, hissue, andThen_of_next, hb, andThen_of_next]⟩

/-- The fetch phase stops only at the end of memory. -/
theorem State.exists_fetchPhase {s : State} (h : s.haltReached = true ∨ s.pc < s.cfg.memWords) :
    ∃ f, s.fetchPhase = .next f := by
  cases hhalt : s.haltReached with
  | true => exact ⟨s, State.fetchPhase_of_halted hhalt⟩
  | false =>
    have hpc := h.resolve_left (by rw [hhalt]; exact Bool.false_ne_true)
    cases hdec : decodeWith s.cfg.opcodes (s.mem.read s.pc) with
    | error e => exact ⟨_, State.fetchPhase_of_error hhalt hpc hdec⟩
    | ok i =>
      rw [State.fetchPhase_of_ok hhalt hpc hdec]
      obtain rfl | ⟨k, d, a, b, imm, rfl⟩ := Instr.eq_halt_or_ofKind i
      · exact ⟨_, rfl⟩
      · exact ⟨_, exec_fetch rfl k d a b imm⟩

/-- Settles O51: the fetch phase stops only with the cursor at the end, and no later phase stops from such a state. -/
theorem safeStepsComplete : Obligations.SafeStepsComplete := by
  intro s hs hlegal hmem
  have hlat : s.cfg.latenciesLegal = true := by
    unfold Params.legal at hlegal
    exact (Bool.and_eq_true_iff.mp hlegal).1
  obtain ⟨-, hcursor, -⟩ := hs.queue
  rw [step_of_legal hlegal]
  cases hdone : s.done with
  | true => exact .inl ⟨s, if_pos rfl⟩
  | false =>
    rw [if_neg Bool.false_ne_true, State.tick]
    by_cases hgo : s.haltReached = true ∨ s.pc < s.cfg.memWords
    · obtain ⟨f, hf⟩ := State.exists_fetchPhase hgo
      have hfetches := State.fetches_of_fetchPhase hf
      have hroomy : f.Roomy := ⟨(hs.mid hlat).fetch hfetches, hfetches.sameRun.cfg ▸ hmem⟩
      rw [hf, andThen_of_next]
      exact .inl (State.exists_afterFetch hroomy)
    · obtain ⟨hhalt, hpc⟩ := not_or.mp hgo
      have hhalt' := Bool.eq_false_iff.mpr hhalt
      refine .inr ⟨?_, Nat.le_antisymm hcursor (Nat.le_of_not_lt hpc), hhalt'⟩
      rw [State.fetchPhase_of_past_end hhalt' (Nat.le_of_not_lt hpc)]
      rfl

end Sys2Proof.Machine
end

section
/-! The timing relations inside a tick (44_execute.md R106; 45_writeback.md R113; 70_reset_and_hazards.md R177). A counter
says how long ago its unit read; which cycle that is counted to changes from phase to phase. -/

namespace Sys2Proof.Machine

/-- A duration against the one asked for: exact, and for a store at least as long (R177). -/
abbrev Lasts (k : Kind) (asked taken : Nat) : Prop := if k = .st then asked ≤ taken else taken = asked

theorem lasts_rfl (k : Kind) (m : Nat) : Lasts k m m := by
  unfold Lasts
  split
  · exact Nat.le_refl m
  · rfl

theorem Lasts.mono {k : Kind} {asked m m' : Nat} (h : Lasts k asked m) (hle : m ≤ m') (heq : k ≠ .st → m' = m) :
    Lasts k asked m' := by
  unfold Lasts at h ⊢
  split
  · next hk =>
    rw [if_pos hk] at h
    exact h.trans hle
  · next hk =>
    rw [if_neg hk] at h
    exact (heq hk).trans h

/-- The timing of a record inside the tick of cycle `cc`: completed in the last or this cycle unless written, written in the
cycle after, and executed for its kind's latency. -/
structure InstrRecord.Timed (r : InstrRecord) (c : Params) (cc : Nat) : Prop where
  pending : ∀ e ∈ r.exec, r.write = none → e + 1 = cc ∨ e = cc
  written : ∀ e ∈ r.exec, ∀ w ∈ r.write, w = e + 1
  latency : ∀ t ∈ r.read, ∀ e ∈ r.exec, ∀ k ∈ c.opcodes.kindOf r.opcode, Lasts k (t + c.delay.get k) (e + 1)

theorem InstrRecord.timed_of_unfinished {r x : InstrRecord} {c : Params} {cc : Nat} (h : r.exec = none)
    (hx : x.exec = r.exec) : x.Timed c cc := by
  have absent {P : Nat → Prop} (e : Nat) (he : e ∈ x.exec) : P e := by rw [hx, h] at he; cases he
  exact ⟨absent, absent, fun _ _ => absent⟩

/-- The records' timing, inside a tick. -/
abbrev State.Timed (s : State) : Prop := ∀ r ∈ s.queue, r.Timed s.cfg s.cc

/-- A property of a busy unit of kind `k` with record `r`, in cycle `cc`. -/
abbrev UnitProp := (c : Params) → (cc : Nat) → (k : Kind) → FunctionalUnit → (r : InstrRecord) → Prop

/-- The cycle to which the counter of an instruction that read at `t` counts before the execute phase of cycle `cc`. -/
def countedTo (cc t : Nat) : Nat := if t < cc then cc else cc + 1

theorem countedTo_of_lt {cc t : Nat} (h : t < cc) : countedTo cc t = cc := if_pos h

theorem countedTo_of_not_lt {cc t : Nat} (h : ¬ t < cc) : countedTo cc t = cc + 1 := if_neg h

/-- Before the execute phase: the counters of instructions that read earlier do not count this cycle yet. -/
abbrev CountsEarly : UnitProp := fun c cc k f r =>
  ∀ t ∈ r.read, r.exec = none → Lasts k (t + c.delay.get k) (f.remaining + countedTo cc t)

/-- After the execute phase: every counter counts this cycle. -/
abbrev CountsLate : UnitProp := fun c cc k f r =>
  ∀ t ∈ r.read, r.exec = none → Lasts k (t + c.delay.get k) (f.remaining + (cc + 1))

/-- After the write-back phase: what has completed and is still served completed in this cycle. -/
abbrev Committed : UnitProp := fun c cc k f r => CountsLate c cc k f r ∧ ∀ e ∈ r.exec, e = cc

/-- `P` holds of unit `u` if it is busy. -/
abbrev State.Holds (s : State) (P : UnitProp) (u : UnitId) : Prop :=
  (s.unit u).busy = true → ∀ r ∈ s.inst u, P s.cfg s.cc u.kind (s.unit u) r

section Transport

variable {s t f : State} {k : Kind} {u v : UnitId} {n : Nat} {r x : InstrRecord} {P : UnitProp}

theorem State.holds_of_idle (h : (s.unit u).busy = false) : s.Holds P u := by
  intro hbusy
  rw [h] at hbusy
  cases hbusy

theorem State.Holds.apply (h : s.Holds P u) (hb : s.Busy k u n r) : P s.cfg s.cc u.kind (s.unit u) r :=
  h hb.busy r (State.inst_of_serving hb.serving)

theorem State.holds_of_serving (hserv : s.Serving u n r) (h : P s.cfg s.cc u.kind (s.unit u) r) : s.Holds P u := by
  intro _ x hx
  rw [State.inst_of_serving hserv] at hx
  cases hx
  exact h

/-- What holds of a unit that serves another slot is kept. -/
theorem State.Holds.edit_ne (h : s.Holds P v) (he : s.Edits t u n x) (hv : v ≠ u)
    (hslot : (s.unit v).busy = true → (s.unit v).slot ≠ some n) : t.Holds P v := by
  intro hbusy y hy
  rw [he.unit_ne v hv] at hbusy ⊢
  obtain ⟨m, hvm, hym⟩ := State.inst_eq_some hy
  rw [he.unit_ne v hv] at hvm
  have hm : m ≠ n := fun hmn => hslot hbusy (hmn ▸ hvm)
  rw [he.cfg, he.cc]
  exact h hbusy y (State.inst_of_serving ⟨hvm, he.getElem?_ne hm ▸ hym⟩)

/-- The slot that a visited unit serves is no other's. -/
theorem State.Mid.slot_ne (hs : s.Mid) (hb : s.Busy k u n r) (hv : v ≠ u) (hbusy : (s.unit v).busy = true) :
    (s.unit v).slot ≠ some n :=
  fun hslot => hv (hs.unit_of_slot hb.busy hbusy hb.serving.1 hslot)

/-- What a visit leaves of every unit follows from what it leaves of its own. -/
theorem State.Mid.holds_edit (hs : s.Mid) (hb : s.Busy k u n r) (he : s.Edits t u n x) (hu : t.Holds P u)
    (h : ∀ w, s.Holds P w) (w : UnitId) : t.Holds P w := by
  by_cases hw : w = u
  · exact hw ▸ hu
  · exact (h w).edit_ne he hw (hs.slot_ne hb hw)

theorem State.Timed.edit (h : s.Timed) (he : s.Edits t u n x) (hx : x.Timed s.cfg s.cc) : t.Timed := by
  intro y hy
  rw [he.queue] at hy
  rw [he.cfg, he.cc]
  obtain hy | rfl := List.mem_or_eq_of_mem_set hy
  · exact h y hy
  · exact hx

/-- After an edit that keeps the unit's slot, the unit serves the new record. -/
theorem State.Edits.serving (he : s.Edits t u n x) (hserv : s.Serving u n r) (hslot : (t.unit u).slot = (s.unit u).slot) :
    t.Serving u n x := by
  obtain ⟨hn, -⟩ := List.getElem?_eq_some_iff.mp hserv.2
  exact ⟨hslot.trans hserv.1, by rw [he.queue, List.getElem?_set_self hn]⟩

/-- Every visit edits its unit and its record. -/
theorem State.Visit.edits (hb : s.Busy k u n r) (h : s.Visit k u n r r.dst r.src0 r.src1 r.imm t) :
    ∃ x, s.Edits t u n x := by
  have unchanged : s.Edits s u n r := by
    refine ⟨rfl, rfl, rfl, fun _ => rfl, ?_, fun _ _ => rfl⟩
    rw [set_self_of_get hb.serving.2]
  cases h with
  | read h =>
    cases h with
    | skip => exact ⟨r, unchanged⟩
    | wait => exact ⟨r, State.Mid.edits_claimed hb⟩
    | read => exact ⟨_, State.edits_haveRead⟩
  | execute h =>
    cases h with
    | skip => exact ⟨r, unchanged⟩
    | count v m => exact ⟨r, State.edits_counted v m⟩
    | complete v mem => exact ⟨_, State.edits_completed v mem⟩
  | write h =>
    cases h with
    | skip => exact ⟨r, unchanged⟩
    | retire v => exact ⟨_, State.edits_retired v⟩
  | clear h => exact ⟨r, h ▸ State.edits_refreshReadiness hb.serving r.src0 r.src1⟩

/-- What holds of a unit is kept by a visit of another. -/
theorem State.Mid.holds_other (hs : s.Mid) (hb : s.Busy k u n r) (h : s.Visit k u n r r.dst r.src0 r.src1 r.imm t)
    (hv : v ≠ u) (hP : s.Holds P v) : t.Holds P v := by
  obtain ⟨x, he⟩ := h.edits hb
  exact hP.edit_ne he hv (hs.slot_ne hb hv)

end Transport

section Phases

variable {s t f i b : State} {k : Kind} {u : UnitId} {n : Nat} {r x : InstrRecord}

/-- A record found in the queue is served by the unit that it names. -/
theorem State.Mid.serving_of_serves (hs : s.Mid) (hr : r ∈ s.queue) (h : t.Serves u r) (hcfg : t.cfg = s.cfg) :
    ∃ m, s.Busy u.kind u m r := by
  obtain ⟨hissue, hwrite, hunit, hkind, -⟩ := h
  rw [hcfg] at hkind
  obtain ⟨m, hm⟩ := List.mem_iff_getElem?.mp hr
  obtain ⟨⟨k, j⟩, -, hbusy, hslot⟩ := hs.served m r hm hissue hwrite
  obtain ⟨-, -, hunit', hkind', -⟩ := (hs.busyOk hbusy ⟨hslot, hm⟩).serves
  have huv : u = ⟨k, j⟩ := by
    obtain ⟨k', j'⟩ := u
    rw [hunit] at hunit'
    rw [hkind] at hkind'
    cases hunit'
    cases hkind'
    rfl
  subst huv
  exact ⟨m, hbusy, ⟨hslot, hm⟩, hkind⟩

theorem State.Fetches.mem_or_fresh (h : s.Fetches f) (hr : r ∈ f.queue) :
    r ∈ s.queue ∨ r = newRecord (s.mem.read s.pc) s.pc := by
  obtain ⟨hqueue, -⟩ | ⟨hqueue, -⟩ | ⟨hqueue, -⟩ := h.queue_cases
  · exact .inl (hqueue ▸ hr)
  · exact .inl (List.mem_of_mem_filter (hqueue ▸ hr))
  · exact (List.mem_append.mp (hqueue ▸ hr)).imp List.mem_of_mem_filter List.mem_singleton.mp

/-- Between ticks the counters do not count the coming cycle, and the fetch phase leaves that so. -/
theorem State.Timely.fetch (ht : s.Timely) (hs : s.Inv) (hm : s.Mid) (h : s.Fetches f) :
    f.Timed ∧ ∀ v, f.Holds CountsEarly v := by
  have hrun := h.sameRun
  have hfm := hm.fetch h
  constructor
  · intro r hr
    rw [hrun.cfg, hrun.cc]
    obtain hr | rfl := h.mem_or_fresh hr
    · exact ⟨fun e he hw => .inl ((ht.writesNext r hr e he).1 hw), fun e he => (ht.writesNext r hr e he).2, ht.latency r hr⟩
    · exact InstrRecord.timed_of_unfinished (r := newRecord _ _) rfl rfl
  · intro u hbusy r hr c hc hexec
    obtain ⟨m, hserv⟩ := State.inst_eq_some hr
    obtain hold | rfl := h.mem_or_fresh (List.mem_of_getElem? hserv.2)
    · obtain ⟨n, hb⟩ := hm.serving_of_serves hold (hfm.busyOk hbusy hserv).serves hrun.cfg
      have hcount := ht.counts u (State.mem_unitIds_of_busy hb.busy) hb.busy r (State.inst_of_serving hb.serving) c hc hexec
      obtain ⟨-, -, -, hrecords⟩ := hs.queue
      obtain ⟨-, -, ⟨-, -, -, -, hpast, -⟩, -⟩ := hrecords r hold
      obtain ⟨m', hunit⟩ := h.unit_eq u
      rw [hrun.cfg, hrun.cc, hunit, countedTo_of_lt (hpast c hc)]
      exact hcount
    · cases hc

/-- An issued record has not been read. -/
theorem State.Mid.timely_issue (hs : s.Mid) (ht : s.Timed ∧ ∀ v, s.Holds CountsEarly v) (h : s.Issues u n r t) :
    t.Timed ∧ ∀ v, t.Holds CountsEarly v := by
  obtain ⟨hrec, hissue, -, hfree, -, rfl⟩ := h
  obtain ⟨-, -, hstamps, -⟩ := hs.record hrec
  have hread := hstamps.read_of_issue hissue
  have he := State.edits_issued (s := s) (k := u.kind) (u := u) hrec
  obtain ⟨-, hu, -, -⟩ := (State.freeUnit_eq_some_iff u).mp hfree
  refine ⟨ht.1.edit he (InstrRecord.timed_of_unfinished (hstamps.exec_of_read hread) rfl), fun v => ?_⟩
  by_cases hv : v = u
  · subst hv
    have hslot : (((s.at (.issue v n)).issued v.kind v n r.dst r.src0 r.src1).unit v).slot = some n := by
      rw [State.unit_issued_same (s := s.at (.issue v n)) (n := n) r.dst r.src0 r.src1 v.kind hu]
      rfl
    obtain ⟨hn, -⟩ := List.getElem?_eq_some_iff.mp hrec
    refine State.holds_of_serving ⟨hslot, by rw [he.queue, List.getElem?_set_self hn]⟩ fun c hc => ?_
    rw [show ({ r with issue := some s.cc, unit := some v.idx } : InstrRecord).read = r.read from rfl, hread] at hc
    cases hc
  · exact (ht.2 v).edit_ne he hv fun hbusy => hs.slot_ne_of_unissued hrec hissue hbusy

/-- A read starts the counter one below the latency (R92), which is so counted from the next cycle on. -/
theorem State.Mid.timely_read (hs : s.Mid) (ht : s.Timed ∧ ∀ v, s.Holds CountsEarly v) (hb : s.Busy k u n r)
    (h : s.ReadVisit k u n r r.dst t) : t.Timed ∧ ∀ v, t.Holds CountsEarly v := by
  cases h with
  | skip => exact ht
  | wait =>
    have he : s.Edits (s.claimed k u r.dst) u n r := State.Mid.edits_claimed hb
    have hunit : (s.claimed k u r.dst).unit u = s.unit u := State.unit_claimed ..
    refine ⟨ht.1.edit he (ht.1 r (List.mem_of_getElem? hb.serving.2)), hs.holds_edit hb he ?_ ht.2⟩
    refine State.holds_of_serving (State.serving_claimed k r.dst hb.serving) ?_
    rw [he.cfg, he.cc, hunit]
    exact (ht.2 u).apply hb
  | read hread =>
    have he : s.Edits ((s.claimed k u r.dst).haveRead u n r) u n { r with read := some s.cc } := State.edits_haveRead
    have hunit := State.unit_haveRead_claimed (k := k) (d := r.dst) hb.serving
    obtain ⟨-, -, hstamps, -⟩ := hs.record hb.serving.2
    have hdelay := (Params.latenciesLegal_iff _).mp hs.latencies u.kind
    refine ⟨ht.1.edit he (InstrRecord.timed_of_unfinished (hstamps.exec_of_read hread) rfl), hs.holds_edit hb he ?_ ht.2⟩
    refine State.holds_of_serving (he.serving hb.serving (by rw [hunit])) fun c hc _ => ?_
    obtain rfl : s.cc = c := Option.some.inj hc
    rw [hunit, he.cfg, he.cc, countedTo_of_not_lt (Nat.lt_irrefl _)]
    have hfull : s.cfg.delay.get u.kind - 1 + (s.cc + 1) = s.cc + s.cfg.delay.get u.kind := by omega
    exact hfull ▸ lasts_rfl ..

/-- The execute phase counts this cycle, unit by unit (R101, R104). -/
theorem settles_counts : Settles (fun s k u n r t => s.ExecuteVisit k u n r r.src0 r.src1 r.imm t)
    (fun s => s.Mid ∧ s.Timed) (fun s u => s.Holds CountsEarly u) (fun s u => s.Holds CountsLate u) where
  placeless _ st h := ⟨h.1.at st, h.2⟩
  placelessA _ _ _ h := h
  placelessB _ _ _ h := h
  idle _ _ _ hidle _ := State.holds_of_idle hidle
  other := by
    rintro s t k u n r v ⟨hs, -⟩ hb h hv
    exact ⟨hs.holds_other hb (.execute h) hv, hs.holds_other hb (.execute h) hv⟩
  visit := by
    rintro s t k u n r ⟨hs, ht⟩ hA hb h
    refine ⟨⟨hs.executeVisit hb h, ?timed⟩, ?late⟩
    case timed =>
      have hr := ht r (List.mem_of_getElem? hb.serving.2)
      cases h with
      | skip => exact ht
      | count v m => exact ht.edit (State.edits_counted v m) hr
      | complete v mem hread hone =>
        have hnone := hs.unfinished hb (by omega)
        obtain ⟨-, hwrite, -⟩ := (hs.busyOk hb.busy hb.serving).serves
        refine ht.edit (State.edits_completed v mem) ⟨fun e he _ => ?_, fun e _ w hw => ?_, fun c hc e he j hj => ?_⟩
        · exact .inr (Option.some.inj he).symm
        · rw [show ({ r with exec := some s.cc } : InstrRecord).write = r.write from rfl, hwrite] at hw
          cases hw
        · obtain rfl : s.cc = e := Option.some.inj he
          obtain rfl : k = j := Option.some.inj (hb.kind.symm.trans hj)
          obtain ⟨c', hc', hlt⟩ := (before_iff _ _).mp hread
          obtain rfl : c' = c := Option.some.inj (hc'.symm.trans hc)
          have hcount := hA.apply hb c' hc hnone
          rw [hone, countedTo_of_lt hlt, Nat.add_comm 1, ← hs.kind_eq hb] at hcount
          exact hcount
    case late =>
      cases h with
      | skip hguard =>
        refine State.holds_of_serving hb.serving fun c hc hexec => ?_
        obtain ⟨-, hcounting, -⟩ := (hs.busyOk hb.busy hb.serving).progress
        have hpos := hcounting (Option.isSome_iff_exists.mpr ⟨c, hc⟩) hexec
        have hnow : ¬ c < s.cc := fun hlt => by
          rw [(before_iff _ _).mpr ⟨c, hc, hlt⟩, decide_eq_true hpos] at hguard
          cases hguard
        have hcount := hA.apply hb c hc hexec
        rwa [countedTo_of_not_lt hnow] at hcount
      | count v m hread hpos _ _ hwriter hstore =>
        refine State.holds_of_serving (State.serving_counted hb.serving v m) fun c hc hexec => ?_
        obtain ⟨c', hc', hlt⟩ := (before_iff _ _).mp hread
        obtain rfl : c' = c := Option.some.inj (hc'.symm.trans hc)
        have hcount := hA.apply hb c' hc hexec
        rw [countedTo_of_lt hlt] at hcount
        rw [State.unit_counted hb.serving v m]
        have hle : (s.unit u).remaining + s.cc ≤ m + (s.cc + 1) := by omega
        refine hcount.mono hle fun hk => ?_
        have := hwriter (hs.kind_eq hb ▸ hk)
        show m + (s.cc + 1) = _
        omega
      | complete v mem =>
        have he : s.Edits ((s.setMem mem).completed u n r v) u n { r with exec := some s.cc } :=
          State.edits_completed v mem
        have hunit := State.unit_completed_setMem hb.serving v mem
        exact State.holds_of_serving (he.serving hb.serving (by rw [hunit])) fun _ _ hexec => by cases hexec

/-- The write-back phase writes what completed in the last cycle, unit by unit (R110, R113). -/
theorem settles_committed : Settles (fun s k u n r t => s.WriteVisit k u n r r.dst t)
    (fun s => s.Mid ∧ s.Timed) (fun s u => s.Holds CountsLate u) (fun s u => s.Holds Committed u) where
  placeless _ st h := ⟨h.1.at st, h.2⟩
  placelessA _ _ _ h := h
  placelessB _ _ _ h := h
  idle _ _ _ hidle _ := State.holds_of_idle hidle
  other := by
    rintro s t k u n r v ⟨hs, -⟩ hb h hv
    exact ⟨hs.holds_other hb (.write h) hv, hs.holds_other hb (.write h) hv⟩
  visit := by
    rintro s t k u n r ⟨hs, ht⟩ hA hb h
    have hr := ht r (List.mem_of_getElem? hb.serving.2)
    have hok := hs.busyOk hb.busy hb.serving
    obtain ⟨-, hwrite, -⟩ := hok.serves
    obtain ⟨-, -, hdone⟩ := hok.progress
    refine ⟨⟨hs.writeVisit hb h, ?_⟩, ?_⟩
    · cases h with
      | skip => exact ht
      | retire v hexec =>
        refine ht.edit (State.edits_retired v) ⟨nofun, fun e he w hw => ?_, hr.latency⟩
        obtain rfl : s.cc = w := Option.some.inj hw
        obtain ⟨e', he', hlt⟩ := (before_iff _ _).mp hexec
        obtain rfl : e' = e := Option.some.inj (he'.symm.trans he)
        have := hr.pending e' he hwrite
        omega
    · cases h with
      | skip hguard =>
        refine State.holds_of_serving hb.serving ⟨hA.apply hb, fun e he => ?_⟩
        obtain ⟨hzero, -⟩ := hdone (Option.isSome_iff_exists.mpr ⟨e, he⟩)
        have hnow : ¬ e < s.cc := fun hlt => by
          rw [(before_iff _ _).mpr ⟨e, he, hlt⟩, decide_eq_true hzero] at hguard
          cases hguard
        have := hr.pending e he hwrite
        omega
      | retire v =>
        have hunit := State.unit_retired_same (State.serving_delivered k r.dst hb.serving v)
        exact State.holds_of_idle (by rw [hunit]; rfl)

/-- The clear-busy phase touches no stamp and no counter. -/
theorem State.Mid.timely_clear (hs : s.Mid) (ht : s.Timed ∧ ∀ v, s.Holds Committed v) (hb : s.Busy k u n r) :
    (s.refreshReadiness u r.src0 r.src1).Timed ∧ ∀ v, (s.refreshReadiness u r.src0 r.src1).Holds Committed v := by
  have he := State.edits_refreshReadiness hb.serving r.src0 r.src1
  have hunit := State.unit_refreshReadiness hb.serving r.src0 r.src1
  refine ⟨ht.1.edit he (ht.1 r (List.mem_of_getElem? hb.serving.2)), hs.holds_edit hb he ?_ ht.2⟩
  refine State.holds_of_serving (he.serving hb.serving (by rw [hunit]; rfl)) ?_
  rw [he.cfg, he.cc, hunit]
  exact (ht.2 u).apply hb

/-- The timing over the four unit phases. -/
theorem State.Mid.timely_unitPhases (hi : i.Mid) (ht : i.Timed ∧ ∀ v, i.Holds CountsEarly v) (h : i.unitPhases = .next b) :
    b.Timed ∧ ∀ v, b.Holds Committed v := by
  have everywhere {s t : State} {P : UnitProp} (hsame : s.SameFetch t) (hP : ∀ v ∈ s.unitIds, t.Holds P v) (v : UnitId) :
      t.Holds P v := fun hbusy => by
    have hv : v ∈ t.unitIds := State.mem_unitIds_of_busy hbusy
    rw [State.unitIds_of_length hsame.length] at hv
    exact hP v hv hbusy
  obtain ⟨r, e, w, hr, he, hw, hb⟩ := State.unitPhases_next h
  obtain ⟨hrm, hrt, hrc⟩ := State.unitPhase_keeps_prop makes_readOperands
    (P := fun s => s.Mid ∧ s.Timed ∧ ∀ v, s.Holds CountsEarly v) (fun s st hp => ⟨hp.1.at st, hp.2⟩)
    (fun s t u k n r hp hb hv => ⟨hp.1.readVisit hb hv, hp.1.timely_read hp.2 hb hv⟩) hr ⟨hi, ht⟩
  obtain ⟨hem, hec⟩ := State.unitPhase_settles makes_execute settles_counts he ⟨hrm, hrt⟩ fun v _ => hrc v
  have hre := State.sameFetch_of_phase makes_execute .execute he
  obtain ⟨hwm, hwc⟩ := State.unitPhase_settles makes_writeBack settles_committed hw hem
    fun v _ => everywhere hre hec v
  have hew := State.sameFetch_of_phase makes_writeBack .write hw
  exact (State.unitPhase_keeps_prop makes_clearBusy
    (P := fun s => s.Mid ∧ s.Timed ∧ ∀ v, s.Holds Committed v) (fun s st hp => ⟨hp.1.at st, hp.2⟩)
    (fun s t u k n r hp hb hv => hv ▸ ⟨hp.1.clearVisit hb _ _, hp.1.timely_clear hp.2 hb⟩) hb
    ⟨hwm.1, hwm.2, everywhere hew hwc⟩).2

/-- At the end of the tick the relations hold as between ticks. -/
theorem State.Mid.timely_endTick (hs : s.Mid) (ht : s.Timed ∧ ∀ v, s.Holds Committed v) : s.endTick.Timely := by
  constructor
  case writesNext =>
    rw [State.endTick_queue, State.endTick_cc]
    refine fun r hr e he => ⟨fun hwrite => ?_, (ht.1 r hr).written e he⟩
    obtain ⟨m, hm⟩ := List.mem_iff_getElem?.mp hr
    obtain ⟨-, -, ⟨hread, hexec, -⟩, -⟩ := hs.record hm
    have hissue := hread.isSome (hexec.isSome (Option.isSome_iff_exists.mpr ⟨e, he⟩))
    obtain ⟨u, -, hbusy, hslot⟩ := hs.served m r hm hissue hwrite
    obtain ⟨-, hnow⟩ := ht.2 u hbusy r (State.inst_of_serving ⟨hslot, hm⟩)
    rw [hnow e he]
  case counts =>
    simp only [State.unitIds_endTick, State.unit_endTick, State.inst_endTick, State.endTick_cfg, State.endTick_cc]
    exact fun u _ hbusy r hr => (ht.2 u hbusy r hr).1
  case latency =>
    rw [State.endTick_queue, State.endTick_cfg]
    exact fun r hr => (ht.1 r hr).latency

end Phases

/-- Settles O46: the execute phase brings every counter up to this cycle, and the write-back phase writes what completed in
the last one. -/
theorem stepKeepsTheTimingRelations : Obligations.StepKeepsTheTimingRelations := by
  intro s t hs ht h
  obtain ⟨hlat, -⟩ := step_next h
  obtain ⟨-, rfl⟩ | ⟨-, f, i, b, hf, hi, hb, rfl⟩ := step_parts h
  · exact ht
  · obtain ⟨hfm, him, hbm⟩ := hs.tick_mid hlat hf hi hb
    have hft := ht.fetch hs (hs.mid hlat) hf
    have hit : i.Timed ∧ ∀ v, i.Holds CountsEarly v := by
      obtain rfl | ⟨n, r, u, hissue⟩ := hi
      · exact hft
      · exact hfm.timely_issue hft hissue
    exact hbm.timely_endTick (him.timely_unitPhases hit hb)

end Sys2Proof.Machine
end

section
/-! The choice of the trace unit (60_exceptions.md R149, R153): no operation but the end of a tick sees it, so every part of
a tick commutes with another choice. -/

namespace Sys2Proof.Machine

section Commute

variable (v : UnitId) (log : List UnitSnapshot)

/-- Changing the state by `f` and choosing another trace unit may be done in either order. -/
abbrev Preserves (f : State → State) : Prop := ∀ s : State, f (s.retraced v log) = (f s).retraced v log

/-- An outcome with another trace unit chosen in its next state. -/
def retracedResult (o : Result) : Result := andThen o fun t => .next (t.retraced v log)

/-- Going on by `f` and choosing another trace unit may be done in either order. -/
abbrev Commutes (f : State → Result) : Prop := ∀ s : State, f (s.retraced v log) = retracedResult v log (f s)

section Fields

variable (s : State)

@[simp] theorem State.retraced_mem : (s.retraced v log).mem = s.mem := rfl
@[simp] theorem State.retraced_pc : (s.retraced v log).pc = s.pc := rfl
@[simp] theorem State.retraced_opcodes : (s.retraced v log).cfg.opcodes = s.cfg.opcodes := rfl
@[simp] theorem State.retraced_policy : (s.retraced v log).cfg.policy = s.cfg.policy := rfl
@[simp] theorem State.unit_retraced (u : UnitId) : (s.retraced v log).unit u = s.unit u := rfl
@[simp] theorem State.inst_retraced (u : UnitId) : (s.retraced v log).inst u = s.inst u := rfl
@[simp] theorem State.retraced_at (st : Station) : (s.retraced v log).at st = (s.at st).retraced v log := rfl

end Fields

variable {v log}

theorem Commutes.andThen {f g : State → Result} (hf : Commutes v log f) (hg : Commutes v log g) :
    Commutes v log fun s => andThen (f s) g := by
  intro s
  show Machine.andThen (f (s.retraced v log)) g = retracedResult v log (Machine.andThen (f s) g)
  rw [hf s]
  cases f s with
  | next t => exact hg t
  | fault e => rfl
  | refused e => rfl

/-- A branch may be taken under `g` when its test is the same. -/
theorem ite_eq_map {α β : Type} (g : α → β) {p q : Prop} [Decidable p] [Decidable q] {a b : β} {a' b' : α} (hpq : p ↔ q)
    (ha : a = g a') (hb : b = g b') : (if p then a else b) = g (if q then a' else b') := by
  rw [apply_ite g, ha, hb]
  exact if_congr hpq rfl rfl

/-! The operations on a state that branch. -/

theorem preserves_wawClaim (u : UnitId) (d : Reg) : Preserves v log fun s => s.wawClaim u d :=
  fun _ => ite_eq_map (fun t : State => t.retraced v log) Iff.rfl rfl rfl

theorem preserves_releaseDestination (u : UnitId) (d : Reg) : Preserves v log fun s => s.releaseDestination u d :=
  fun _ => ite_eq_map (fun t : State => t.retraced v log) Iff.rfl rfl rfl

theorem preserves_claimFree (k : Kind) (u : UnitId) (d : Reg) : Preserves v log fun s => s.claimFree k u d :=
  fun _ => ite_eq_map (fun t : State => t.retraced v log) Iff.rfl rfl rfl

theorem preserves_fetchWord (w : Word) : Preserves v log (State.fetchWord w) :=
  fun _ => ite_eq_map (fun t : State => t.retraced v log) Iff.rfl rfl rfl

theorem preserves_updateInst (u : UnitId) (f : InstrRecord → InstrRecord) : Preserves v log fun s => s.updateInst u f := by
  intro s
  simp only [State.updateInst, State.unit_retraced]
  cases (s.unit u).slot <;> rfl

theorem preserves_logInst (u : UnitId) : Preserves v log fun s => s.logInst u := by
  intro s
  simp only [State.logInst, State.inst_retraced]
  cases s.inst u <;> rfl

theorem preserves_startReading (u : UnitId) : Preserves v log fun s => s.startReading u := fun s =>
  congrArg (State.updateUnit · u fun f => { f with remaining := s.cfg.delay.get u.kind - 1 })
    (preserves_updateInst u _ s)

theorem preserves_stampExec (u : UnitId) : Preserves v log fun s => s.stampExec u := fun s => preserves_updateInst u _ s

theorem preserves_stampWrite (u : UnitId) : Preserves v log fun s => s.stampWrite u := fun s =>
  (congrArg (State.logInst · u) (preserves_updateInst u _ s)).trans (preserves_logInst u _)

theorem preserves_issued (k : Kind) (u : UnitId) (n : Nat) (d a b : Reg) :
    Preserves v log fun s => s.issued k u n d a b :=
  fun s => preserves_claimFree k u d (s.placed u n d a b (decide (k ≠ .st) && (s.owner d).isSome))

theorem preserves_claimed (k : Kind) (u : UnitId) (d : Reg) : Preserves v log fun s => s.claimed k u d := by
  intro s
  simp only [State.claimed]
  split
  · rfl
  · exact preserves_wawClaim u d s

/-! The stages. -/

theorem commutes_readStage {u : UnitId} {claim : State → State} {ok : State → Bool} (hclaim : Preserves v log claim)
    (hok : ∀ s : State, ok (s.retraced v log) = ok s) : Commutes v log fun s => s.readStage u claim ok := by
  intro s
  simp only [State.readStage, State.inst_retraced, hclaim s, hok]
  cases s.inst u with
  | none => rfl
  | some r =>
    exact ite_eq_map (retracedResult v log) Iff.rfl rfl
      (ite_eq_map (retracedResult v log) Iff.rfl (congrArg Host.Outcome.next (preserves_startReading u (claim s))) rfl)

theorem State.stageResult_retraced (s : State) (u : UnitId) (value : Except Refusal Word) :
    (s.retraced v log).stageResult u value = (s.stageResult u value).map (·.retraced v log) := by
  simp only [State.stageResult, State.unit_retraced]
  cases (s.unit u).result with
  | some w => rfl
  | none => cases value <;> rfl

theorem State.memWrite_retraced (s : State) (a : Nat) (w : Word) :
    (s.retraced v log).memWrite a w = (s.memWrite a w).map (·.retraced v log) :=
  ite_eq_map (Except.map (fun t : State => t.retraced v log)) Iff.rfl rfl rfl

theorem commutes_executeStage {u : UnitId} (value : State → Except Refusal Word) {finish : State → Result}
    (hvalue : ∀ s : State, value (s.retraced v log) = value s) (hfinish : Commutes v log finish) :
    Commutes v log fun s => s.executeStage u (value s) finish := by
  intro s
  simp only [State.executeStage, State.inst_retraced, hvalue, State.stageResult_retraced]
  cases s.inst u with
  | none => rfl
  | some r =>
    refine ite_eq_map (retracedResult v log) Iff.rfl ?_ rfl
    cases s.stageResult u (value s) with
    | error e => rfl
    | ok t => exact ite_eq_map (retracedResult v log) Iff.rfl (hfinish (t.countDown u)) rfl

theorem commutes_finishStore (u : UnitId) (imm : Addr) : Commutes v log fun s => s.finishStore u imm := by
  intro s
  have hbump : (s.retraced v log).storeBump u imm = (s.storeBump u imm).retraced v log := rfl
  simp only [State.finishStore, hbump, State.unit_retraced, State.memWrite_retraced]
  refine ite_eq_map (retracedResult v log) Iff.rfl ?_ rfl
  cases ((s.storeBump u imm).unit u).result with
  | none => rfl
  | some w =>
    dsimp only
    cases (s.storeBump u imm).memWrite (effectiveAddress imm) w with
    | error e => rfl
    | ok t => exact congrArg Host.Outcome.next (preserves_stampExec u t)

theorem commutes_complete (k : Kind) (u : UnitId) (imm : Addr) : Commutes v log (State.complete k u imm) := fun s =>
  ite_eq_map (retracedResult v log) Iff.rfl (commutes_finishStore u imm s) (congrArg Host.Outcome.next (preserves_stampExec u s))

theorem State.computed_retraced (s : State) (k : Kind) (a b : Reg) (imm : Addr) :
    (s.retraced v log).computed k a b imm = s.computed k a b imm := by
  cases k <;> rfl

theorem commutes_writeBackStage {u : UnitId} {commit : State → Result} (hcommit : Commutes v log commit) :
    Commutes v log fun s => s.writeBackStage u commit := by
  intro s
  simp only [State.writeBackStage, State.inst_retraced]
  cases s.inst u with
  | none => rfl
  | some r => exact ite_eq_map (retracedResult v log) Iff.rfl (hcommit s) rfl

theorem commutes_commitRegister (u : UnitId) (d : Reg) : Commutes v log fun s => s.commitRegister u d := by
  intro s
  simp only [State.commitRegister, State.unit_retraced]
  cases (s.unit u).result with
  | none => rfl
  | some w =>
    have hstamp : ((s.retraced v log).setReg d w).stampWrite u = ((s.setReg d w).stampWrite u).retraced v log :=
      preserves_stampWrite u (s.setReg d w)
    have hrelease := preserves_releaseDestination (v := v) (log := log) u d ((s.setReg d w).stampWrite u)
    exact congrArg (fun t : State => Host.Outcome.next (t.resetUnit u))
      ((congrArg (State.releaseDestination · u d) hstamp).trans hrelease)

theorem commutes_commit (k : Kind) (u : UnitId) (d : Reg) : Commutes v log (State.commit k u d) := fun s =>
  ite_eq_map (retracedResult v log) Iff.rfl (congrArg (fun t : State => Host.Outcome.next (t.resetUnit u)) (preserves_stampWrite u s))
    (commutes_commitRegister u d s)

/-! The instructions, the phases and the tick. -/

theorem commutes_exec (i : Instr) : Commutes v log (exec i) := by
  intro s
  obtain rfl | ⟨k, d, a, b, imm, rfl⟩ := Instr.eq_halt_or_ofKind i
  · rfl
  · cases hs : s.station with
    | fetch =>
      rw [exec_fetch hs, exec_fetch (s := s.retraced v log) hs]
      exact congrArg Host.Outcome.next (preserves_fetchWord _ s)
    | issue u n =>
      rw [exec_issue d a b hs, exec_issue (s := s.retraced v log) d a b hs]
      exact congrArg Host.Outcome.next (preserves_issued k u n d a b s)
    | readOperands u =>
      rw [exec_readOperands k d a b imm hs, exec_readOperands (s := s.retraced v log) k d a b imm hs]
      exact commutes_readStage (preserves_claimed k u d) (fun _ => rfl) s
    | execute u =>
      rw [exec_execute k d a b imm hs, exec_execute (s := s.retraced v log) k d a b imm hs]
      exact commutes_executeStage (State.computed · k a b imm) (fun t => t.computed_retraced k a b imm)
        (commutes_complete k u imm) s
    | writeBack u =>
      rw [exec_writeBack k d a b imm hs, exec_writeBack (s := s.retraced v log) k d a b imm hs]
      exact commutes_writeBackStage (commutes_commit k u d) s
    | clearBusy u =>
      rw [exec_clearBusy k d a b imm hs, exec_clearBusy (s := s.retraced v log) k d a b imm hs]
      rfl

theorem commutes_fetchPhase : Commutes v log State.fetchPhase := by
  intro s
  refine ite_eq_map (retracedResult v log) Iff.rfl rfl (ite_eq_map (retracedResult v log) Iff.rfl rfl ?_)
  simp only [State.retraced_pc, State.retraced_mem, State.retraced_opcodes, State.retraced_at]
  cases decodeWith s.cfg.opcodes (s.mem.read s.pc) with
  | ok i => exact commutes_exec i (s.at .fetch)
  | error e => exact congrArg Host.Outcome.next (preserves_fetchWord _ s)

theorem State.issueChoice_retraced (s : State) (r : InstrRecord) :
    (s.retraced v log).issueChoice r = s.issueChoice r := rfl

theorem commutes_issueScan (rs : List InstrRecord) (n : Nat) : Commutes v log fun s => s.issueScan n rs := by
  intro s
  induction rs generalizing n with
  | nil => rfl
  | cons r rest ih =>
    refine ite_eq_map (retracedResult v log) Iff.rfl (ih (n + 1)) ?_
    simp only [State.issueChoice_retraced, State.retraced_at, State.retraced_policy]
    cases s.issueChoice r with
    | some c => exact commutes_exec c.2 (s.at (.issue c.1 n))
    | none =>
      cases s.cfg.policy with
      | inOrder => rfl
      | firstFit => exact ih (n + 1)

theorem commutes_issuePhase : Commutes v log State.issuePhase := fun s => commutes_issueScan s.queue 0 s

theorem commutes_serve (st : UnitId → Station) (u : UnitId) : Commutes v log fun s => s.serve st u := by
  intro s
  refine ite_eq_map (retracedResult v log) Iff.rfl ?_ rfl
  simp only [State.inst_retraced, State.retraced_opcodes, State.retraced_at]
  cases (s.inst u).bind (InstrRecord.instr s.cfg.opcodes) with
  | none => rfl
  | some i => exact commutes_exec i (s.at (st u))

theorem commutes_serveAll (st : UnitId → Station) : ∀ us : List UnitId, Commutes v log (State.serveAll st us)
  | [] => fun _ => rfl
  | u :: rest => (commutes_serve st u).andThen (commutes_serveAll st rest)

theorem commutes_unitPhase (st : UnitId → Station) : Commutes v log (State.unitPhase st) :=
  fun s => commutes_serveAll st s.unitIds s

theorem commutes_unitPhases : Commutes v log State.unitPhases :=
  (commutes_unitPhase .readOperands).andThen <| (commutes_unitPhase .execute).andThen <|
    (commutes_unitPhase .writeBack).andThen (commutes_unitPhase .clearBusy)

/-- The end of a tick is the one place where the trace unit is seen: it decides what the unit trace gets. -/
theorem State.endTick_retraced (s : State) : ∃ log', (s.retraced v log).endTick = s.endTick.retraced v log' := by
  refine ⟨(s.retraced v log).endTick.unitTrace, ?_⟩
  simp only [State.endTick, State.emitUnitTrace]
  split <;> split <;> rfl

end Commute

/-- A tick up to its end (R60). -/
def State.tickBody (s : State) : Result := andThen s.fetchPhase fun f => andThen f.issuePhase State.unitPhases

theorem State.tick_eq_tickBody (s : State) : s.tick = andThen s.tickBody fun b => .next b.endTick := by
  have hafter : State.afterFetch = fun f => andThen (andThen f.issuePhase State.unitPhases) fun b => .next b.endTick := by
    funext f
    rw [State.afterFetch_eq_unitPhases, andThen_assoc]
  rw [State.tick, State.tickBody, andThen_assoc, hafter]

/-- A step with another trace unit and unit trace: the body of its tick is the same but for these. -/
theorem step_retraced (s : State) (u : UnitId) (log : List UnitSnapshot) :
    step (s.retraced u log) =
      if s.cfg.latenciesLegal = false then .refused .illegalLatency
      else if s.cfg.opcodes.legal = false then .refused .illegalOpcodes
      else if s.done then .next (s.retraced u log)
      else andThen (retracedResult u log s.tickBody) fun b => .next b.endTick := by
  have hbody : (s.retraced u log).tickBody = retracedResult u log s.tickBody :=
    commutes_fetchPhase.andThen (commutes_issuePhase.andThen commutes_unitPhases) s
  rw [← hbody, ← State.tick_eq_tickBody]
  rfl

/-- Settles O56: all of a tick but its end commutes with the choice, and its end shows it in the unit trace alone. -/
theorem traceUnitIsNotObserved : Obligations.TraceUnitIsNotObserved := by
  intro s u log
  rw [step_retraced, step, State.tick_eq_tickBody]
  by_cases hl : s.cfg.latenciesLegal = false
  · simp only [if_pos hl]
  by_cases ho : s.cfg.opcodes.legal = false
  · simp only [if_neg hl, if_pos ho]
  by_cases hd : s.done = true
  · simp only [if_neg hl, if_neg ho, if_pos hd]
    exact ⟨log, rfl⟩
  simp only [if_neg hl, if_neg ho, if_neg hd]
  cases s.tickBody with
  | next b =>
    obtain ⟨log', hend⟩ := State.endTick_retraced (v := u) (log := log) b
    exact ⟨log', congrArg Host.Outcome.next hend⟩
  | fault e => rfl
  | refused e => rfl

end Sys2Proof.Machine
end

section
/-! Binary32 patterns (93_implementation_defined.md G3): the fields of a pattern built from a sign and magnitude bits, and
the datum that it stands for. -/

namespace Sys2Proof.Machine.Binary32

section Fields

variable (neg : Bool) {b : Nat}

theorem toNat_withSign (hb : b < 2 ^ 31) : (withSign neg b).toNat = neg.toNat * 2 ^ 31 + b := by
  rw [withSign, BitVec.toNat_append, BitVec.toNat_ofNat, BitVec.toNat_ofBool, Nat.mod_eq_of_lt hb,
    ← Nat.shiftLeft_add_eq_or_of_lt hb, Nat.shiftLeft_eq]

theorem signOf_withSign (b : Nat) : signOf (withSign neg b) = neg := by
  rw [signOf, withSign, BitVec.msb_append]
  cases neg <;> rfl

theorem expField_eq (w : Word) : expField w = w.toNat / 2 ^ 23 % 2 ^ 8 := by
  rw [expField, BitVec.extractLsb'_toNat, Nat.shiftRight_eq_div_pow]

theorem fracField_eq (w : Word) : fracField w = w.toNat % 2 ^ 23 := by
  rw [fracField, BitVec.extractLsb'_toNat, Nat.shiftRight_zero]

theorem fracField_lt (w : Word) : fracField w < 2 ^ 23 := by
  rw [fracField_eq]
  exact Nat.mod_lt _ (by decide)

theorem expField_lt (w : Word) : expField w < 2 ^ 8 := by
  rw [expField_eq]
  exact Nat.mod_lt _ (by decide)

theorem expField_withSign (hb : b < 2 ^ 31) : expField (withSign neg b) = b / 2 ^ 23 := by
  rw [expField_eq, toNat_withSign neg hb]
  cases neg with
  | false => simp only [Bool.toNat_false]; omega
  | true => simp only [Bool.toNat_true]; omega

theorem fracField_withSign (hb : b < 2 ^ 31) : fracField (withSign neg b) = b % 2 ^ 23 := by
  rw [fracField_eq, toNat_withSign neg hb]
  cases neg with
  | false => simp only [Bool.toNat_false]; omega
  | true => simp only [Bool.toNat_true]; omega

theorem getLsbD_withSign (hb : b < 2 ^ 31) : (withSign neg b).getLsbD 0 = decide (b % 2 = 1) := by
  rw [BitVec.getLsbD, toNat_withSign neg hb, Nat.testBit_zero]
  congr 2
  omega

/-- A pattern is its sign and the two fields of its magnitude bits. -/
theorem withSign_fields (w : Word) : withSign (signOf w) (expField w * 2 ^ 23 + fracField w) = w := by
  have hfrac := fracField_lt w
  have hexp := expField_lt w
  refine BitVec.eq_of_toNat_eq ?_
  rw [toNat_withSign _ (by omega), signOf, BitVec.msb_eq_decide, expField_eq, fracField_eq]
  have hw := w.isLt
  by_cases h : 2 ^ (32 - 1) ≤ w.toNat
  · simp only [h, decide_true, Bool.toNat_true]; omega
  · simp only [h, decide_false, Bool.toNat_false]; omega

end Fields

section Unpack

variable {w : Word} {n : Bool} {m : Nat} {e : Int}

theorem unpack_of_exp_max (he : expField w = 255) (hf : fracField w = 0) : unpack w = .inf (signOf w) := by
  rw [unpack, if_pos he, if_pos hf]

theorem unpack_eq_nan_iff : unpack w = .nan ↔ expField w = 255 ∧ fracField w ≠ 0 := by
  unfold unpack
  split_ifs <;> simp [*]

theorem unpack_eq_finite_iff : unpack w = .finite n m e ↔
    n = signOf w ∧ (expField w = 0 ∧ m = fracField w ∧ e = -149 ∨
      0 < expField w ∧ expField w < 255 ∧ m = 2 ^ 23 + fracField w ∧ e = expField w - 150) := by
  have hexp := expField_lt w
  by_cases hmax : expField w = 255
  · have hnot : unpack w ≠ .finite n m e := by
      rw [unpack, if_pos hmax]
      split <;> nofun
    exact iff_of_false hnot (by omega)
  · rw [unpack, if_neg hmax]
    by_cases hzero : expField w = 0
    · rw [if_pos hzero, Datum.finite.injEq, eq_comm (a := signOf w)]
      exact and_congr_right fun _ => by omega
    · rw [if_neg hzero, Datum.finite.injEq, eq_comm (a := signOf w)]
      exact and_congr_right fun _ => by omega

theorem unpack_infinity (neg : Bool) : unpack (infinity neg) = .inf neg := by
  have hb : infBits < 2 ^ 31 := by decide
  have hexp : expField (infinity neg) = 255 := (expField_withSign neg hb).trans (by decide)
  have hfrac : fracField (infinity neg) = 0 := (fracField_withSign neg hb).trans (by decide)
  rw [unpack_of_exp_max hexp hfrac, infinity, signOf_withSign]

/-- The bounds of a finite datum. -/
theorem finite_bounds (h : unpack w = .finite n m e) : m < 2 ^ 24 ∧ -149 ≤ e ∧ e ≤ 104 := by
  obtain ⟨-, ⟨-, rfl, rfl⟩ | ⟨hpos, hlt, rfl, rfl⟩⟩ := unpack_eq_finite_iff.mp h
  · have := fracField_lt w
    omega
  · have := fracField_lt w
    omega

end Unpack

/-! NaN patterns (U6). -/

theorem infBits_eq : infBits = 255 * 2 ^ 23 := by decide

theorem unpack_nanOf (c : Word) : unpack (nanOf c) = .nan := by
  have hfrac := fracField_lt c
  rw [unpack_eq_nan_iff, nanOf, infBits_eq]
  split
  · rw [expField_withSign _ (by omega), fracField_withSign _ (by omega)]
    omega
  · rw [expField_withSign _ (by omega), fracField_withSign _ (by omega)]
    omega

theorem isNaN_iff (w : Word) : isNaN w = true ↔ unpack w = .nan := decide_eq_true_iff

theorem isNaN_nanOf (c : Word) : isNaN (nanOf c) = true := (isNaN_iff _).mpr (unpack_nanOf c)

theorem nanOf_self {w : Word} (h : isNaN w = true) : nanOf w = w := by
  obtain ⟨hexp, hfrac⟩ := unpack_eq_nan_iff.mp ((isNaN_iff w).mp h)
  have hfields := withSign_fields w
  rw [hexp] at hfields
  rw [nanOf, if_neg hfrac, infBits_eq, hfields]

end Sys2Proof.Machine.Binary32

namespace Sys2Proof.Machine

/-- Settles O60: `nanOf` builds an all-ones exponent over a fraction that is not zero, and keeps both where they stand. -/
theorem nanResultIsAnyNaN : Obligations.NaNResultIsAnyNaN :=
  ⟨Binary32.isNaN_nanOf, fun _ => Binary32.nanOf_self⟩

end Sys2Proof.Machine
end

section
/-! Special results (47_arith.md R126): what the four operations answer on zeros, infinities and NaNs. -/

namespace Sys2Proof.Machine.Binary32

section Value

variable {w : Word} {x : ℚ}

/-- A pattern with a value is finite, with its own sign bit. -/
theorem exists_of_value (h : value w = some x) : ∃ (m : Nat) (e : Int),
    unpack w = .finite (signOf w) m e ∧ x = (if signOf w then -1 else 1) * (m : ℚ) * (2 : ℚ) ^ e := by
  unfold value at h
  split at h
  · next n m e hw =>
    obtain ⟨rfl, -⟩ := unpack_eq_finite_iff.mp hw
    exact ⟨m, e, hw, (Option.some.inj h).symm⟩
  · cases h
  · cases h

/-- A number given by sign, significand and exponent is zero exactly when its significand is. -/
theorem signed_eq_zero_iff (n : Bool) (m : Nat) (e : Int) :
    (if n then -1 else 1) * (m : ℚ) * (2 : ℚ) ^ e = 0 ↔ m = 0 := by
  have hsign : (if n then -1 else 1 : ℚ) ≠ 0 := by cases n <;> norm_num
  have hpow : (2 : ℚ) ^ e ≠ 0 := zpow_ne_zero e two_ne_zero
  rw [mul_eq_zero_iff_right hpow, mul_eq_zero_iff_left hsign, Nat.cast_eq_zero]

theorem exists_of_value_zero (h : value w = some 0) : ∃ e : Int, unpack w = .finite (signOf w) 0 e := by
  obtain ⟨m, e, hw, hx⟩ := exists_of_value h
  obtain rfl := (signed_eq_zero_iff _ m e).mp hx.symm
  exact ⟨e, hw⟩

theorem exists_of_value_ne_zero (h : value w = some x) (hx : x ≠ 0) :
    ∃ (m : Nat) (e : Int), unpack w = .finite (signOf w) m e ∧ m ≠ 0 := by
  obtain ⟨m, e, hw, rfl⟩ := exists_of_value h
  exact ⟨m, e, hw, mt (signed_eq_zero_iff _ m e).mpr hx⟩

end Value

section Special

variable (c : Word) (d : Datum)

theorem addData_nan_left : addData c .nan d = nanOf c := by cases d <;> rfl

theorem addData_nan_right : addData c d .nan = nanOf c := by cases d <;> rfl

theorem mulData_nan_left : mulData c .nan d = nanOf c := by cases d <;> rfl

theorem mulData_nan_right : mulData c d .nan = nanOf c := by cases d <;> rfl

theorem divData_nan_left : divData c .nan d = nanOf c := by cases d <;> rfl

theorem divData_nan_right : divData c d .nan = nanOf c := by cases d <;> rfl

/-- Infinities of opposite signs have no sum. -/
theorem addData_inf_negate (n : Bool) : addData c (.inf n) (negate (.inf n)) = nanOf c := by cases n <;> rfl

end Special

end Sys2Proof.Machine.Binary32

namespace Sys2Proof.Machine

open Binary32

/-- Settles O59: each case is a row of the tables of the operations on data. -/
theorem specialResultsDoNotTrap : Obligations.SpecialResultsDoNotTrap := by
  refine ⟨fun a b x ha hx hb => ?byZero, fun a b ha hb => ?zeroByZero, fun n => ?infMinusInf, fun a n ha => ?zeroTimesInf,
    fun a b hnan => ?onNaN⟩
  case byZero =>
    obtain ⟨m, e, hua, hm⟩ := exists_of_value_ne_zero ha hx
    obtain ⟨e', hub⟩ := exists_of_value_zero hb
    simp only [fdiv, div, hua, hub, divData, if_true, if_neg hm, signOf]
  case zeroByZero =>
    obtain ⟨e, hua⟩ := exists_of_value_zero ha
    obtain ⟨e', hub⟩ := exists_of_value_zero hb
    simp only [fdiv, div, hua, hub, divData, if_true, isNaN_nanOf]
  case infMinusInf => simp only [fsub, sub, unpack_infinity, addData_inf_negate, isNaN_nanOf]
  case zeroTimesInf =>
    obtain ⟨e, hua⟩ := exists_of_value_zero ha
    simp only [fmul, mul, hua, unpack_infinity, mulData, if_true, isNaN_nanOf, and_self]
  case onNaN =>
    obtain ha | hb := hnan
    · have hua := (isNaN_iff a).mp ha
      simp only [fadd, fsub, fmul, fdiv, add, sub, mul, div, hua, addData_nan_left, mulData_nan_left,
        divData_nan_left, isNaN_nanOf, and_self]
    · have hub := (isNaN_iff b).mp hb
      simp only [fadd, fsub, fmul, fdiv, add, sub, mul, div, hub, negate, addData_nan_right, mulData_nan_right,
        divData_nan_right, isNaN_nanOf, and_self]

end Sys2Proof.Machine
end

section
/-! Rounding to the nearest natural number, ties to even (47_arith.md R121, R126), and the sticky bit with which a quotient is
cut off. -/

namespace Sys2Proof.Machine.Binary32

/-- `M` is a natural number nearest to `x`, and even if `x` lies midway between two. -/
structure NearestEven (M : Nat) (x : ℚ) : Prop where
  near : |(M : ℚ) - x| ≤ 1 / 2
  even : |(M : ℚ) - x| = 1 / 2 → M % 2 = 0

theorem nearestEven_self (M : Nat) : NearestEven M M := by
  have hzero : |(M : ℚ) - M| = 0 := by rw [sub_self, abs_zero]
  exact ⟨by rw [hzero]; norm_num, fun h => by rw [hzero] at h; norm_num at h⟩

section NearestEven

variable {M : Nat} {x v : ℚ}

theorem NearestEven.le (h : NearestEven M x) : (M : ℚ) ≤ x + 1 / 2 := by
  have := (abs_le.mp h.near).2
  linarith

theorem NearestEven.ge (h : NearestEven M x) : x - 1 / 2 ≤ M := by
  have := (abs_le.mp h.near).1
  linarith

/-- No integer is nearer, and another is as near only when `M` is even. -/
theorem NearestEven.le_int (h : NearestEven M x) (k : ℤ) :
    |(M : ℚ) - x| ≤ |k - x| ∧ ((k : ℚ) ≠ M → |(M : ℚ) - x| = |k - x| → M % 2 = 0) := by
  by_cases hk : k = M
  · subst hk
    exact ⟨le_rfl, fun hne => absurd rfl hne⟩
  · have hone : (1 : ℚ) ≤ |(k : ℚ) - M| := by
      exact_mod_cast Int.one_le_abs (sub_ne_zero.mpr hk)
    have htri : |(k : ℚ) - M| ≤ |k - x| + |(M : ℚ) - x| := by
      rw [abs_sub_comm (M : ℚ) x]
      exact abs_sub_le _ _ _
    have hnear := h.near
    refine ⟨by linarith, fun _ heq => h.even ?_⟩
    linarith

/-- Nor is a number below all of 24 bits nearer, when `x` has that many. -/
theorem NearestEven.lt_small (h : NearestEven M x) (hv : |v| < 2 ^ 23) (hx : 2 ^ 23 ≤ x) :
    |(M : ℚ) - x| < |v - x| := by
  obtain ⟨hle, -⟩ := h.le_int (2 ^ 23)
  have hv' := (abs_lt.mp hv).2
  have hcast : ((2 ^ 23 : ℤ) : ℚ) = 2 ^ 23 := by norm_num
  rw [hcast, abs_of_nonpos (a := 2 ^ 23 - x) (by linarith)] at hle
  rw [abs_of_nonpos (a := v - x) (by linarith)]
  linarith

theorem nearestEven_div_iff {D : ℚ} (hD : 0 < D) :
    NearestEven M (x / D) ↔ |M * D - x| ≤ D / 2 ∧ (|M * D - x| = D / 2 → M % 2 = 0) := by
  have hscale : |(M : ℚ) - x / D| = |M * D - x| / D := by
    rw [← abs_of_pos hD, ← abs_div, abs_of_pos hD, sub_div, mul_div_cancel_right₀ _ hD.ne']
  have hhalf : (1 / 2 : ℚ) = D / 2 / D := by field_simp
  constructor
  · rintro ⟨hnear, heven⟩
    rw [hscale, hhalf] at hnear heven
    exact ⟨(div_le_div_iff_of_pos_right hD).mp hnear, fun h => heven (by rw [h])⟩
  · rintro ⟨hnear, heven⟩
    constructor
    · rw [hscale, hhalf]
      exact (div_le_div_iff_of_pos_right hD).mpr hnear
    · rw [hscale, hhalf]
      exact fun h => heven ((div_left_inj' hD.ne').mp h)

end NearestEven

/-- `N` is the number `t`, or `t` lies strictly between the even neighbours of an odd `N`: the last bit of `N` says that
something was cut off. -/
def Sticky (N : Nat) (t : ℚ) : Prop := t = N ∨ N % 2 = 1 ∧ (N : ℚ) - 1 < t ∧ t < N + 1

/-- `roundShift` on integers: off by at most half of `2 ^ k`, and even when off by exactly half. -/
theorem roundShift_spec (n k : Nat) :
    2 * (roundShift n k * 2 ^ k) ≤ 2 * n + 2 ^ k ∧ 2 * n ≤ 2 * (roundShift n k * 2 ^ k) + 2 ^ k ∧
      (2 * (roundShift n k * 2 ^ k) = 2 * n + 2 ^ k ∨ 2 * n = 2 * (roundShift n k * 2 ^ k) + 2 ^ k →
        roundShift n k % 2 = 0) := by
  have hdiv := Nat.div_add_mod' n (2 ^ k)
  have hmod := Nat.mod_lt n (Nat.two_pow_pos k)
  unfold roundShift
  dsimp only
  split
  · rw [Nat.add_mul, Nat.one_mul]
    omega
  · omega

theorem nearestEven_roundShift {N k : Nat} {t : ℚ} (h : Sticky N t) (hk : t = N ∨ 2 ≤ k) :
    NearestEven (roundShift N k) (t / 2 ^ k) := by
  obtain ⟨hle, hge, heven⟩ := roundShift_spec N k
  rw [nearestEven_div_iff (by positivity)]
  have hle' : 2 * ((roundShift N k : ℚ) * 2 ^ k) ≤ 2 * N + 2 ^ k := by exact_mod_cast hle
  have hge' : 2 * (N : ℚ) ≤ 2 * ((roundShift N k : ℚ) * 2 ^ k) + 2 ^ k := by exact_mod_cast hge
  by_cases hexact : t = N
  · subst hexact
    refine ⟨abs_le.mpr ⟨by linarith, by linarith⟩, fun heq => heven ?_⟩
    obtain h | h := eq_or_eq_neg_of_abs_eq heq
    · left
      have : 2 * ((roundShift N k : ℚ) * 2 ^ k) = 2 * N + 2 ^ k := by linarith
      exact_mod_cast this
    · right
      have : 2 * (N : ℚ) = 2 * ((roundShift N k : ℚ) * 2 ^ k) + 2 ^ k := by linarith
      exact_mod_cast this
  · obtain ⟨hodd, hlow, hhigh⟩ := h.resolve_left hexact
    obtain ⟨j, rfl⟩ := Nat.exists_eq_add_of_le (hk.resolve_left hexact)
    have hpow : 2 ^ (2 + j) = 4 * 2 ^ j := by rw [Nat.pow_add]
    have hmul : roundShift N (2 + j) * 2 ^ (2 + j) = 4 * (roundShift N (2 + j) * 2 ^ j) := by rw [hpow]; ring
    have hle2 : 2 * (roundShift N (2 + j) * 2 ^ (2 + j)) + 2 ≤ 2 * N + 2 ^ (2 + j) := by omega
    have hge2 : 2 * N + 2 ≤ 2 * (roundShift N (2 + j) * 2 ^ (2 + j)) + 2 ^ (2 + j) := by omega
    have hle3 : 2 * ((roundShift N (2 + j) : ℚ) * 2 ^ (2 + j)) + 2 ≤ 2 * N + 2 ^ (2 + j) := by exact_mod_cast hle2
    have hge3 : 2 * (N : ℚ) + 2 ≤ 2 * ((roundShift N (2 + j) : ℚ) * 2 ^ (2 + j)) + 2 ^ (2 + j) := by
      exact_mod_cast hge2
    have hlt : |(roundShift N (2 + j) : ℚ) * 2 ^ (2 + j) - t| < 2 ^ (2 + j) / 2 :=
      abs_lt.mpr ⟨by linarith, by linarith⟩
    exact ⟨hlt.le, fun heq => absurd heq hlt.ne⟩

end Sys2Proof.Machine.Binary32
end

section
/-! The pattern of a rounded number (93_implementation_defined.md G3): `M` units of `2 ^ (p - 149)` are the magnitude bits
`p * 2 ^ 23 + M`, which are an infinity's from the overflow bound on. -/

namespace Sys2Proof.Machine.Binary32

/-- A number with the sign bit `neg`. -/
abbrev signed (neg : Bool) (x : ℚ) : ℚ := (if neg then -1 else 1) * x

theorem abs_signed (neg : Bool) (x : ℚ) : |signed neg x| = |x| := by
  cases neg <;> simp [signed]

theorem signed_sub (neg : Bool) (x y : ℚ) : signed neg x - signed neg y = signed neg (x - y) := by
  rw [signed, signed, ← mul_sub]

theorem signed_signed (neg : Bool) (x : ℚ) : signed neg (signed neg x) = x := by
  cases neg <;> simp [signed]

theorem value_eq_of_unpack {w : Word} {n : Bool} {m : Nat} {e : Int} (h : unpack w = .finite n m e) :
    value w = some (signed n (m * (2 : ℚ) ^ e)) := by
  simp only [value, h, signed, mul_assoc]

/-- The unit of the last place of a magnitude with exponent part `p`. -/
def ulp (p : Nat) : ℚ := 2 ^ ((p : Int) - 149)

theorem ulp_pos (p : Nat) : 0 < ulp p := zpow_pos two_pos _

theorem ulp_succ (p : Nat) : ulp (p + 1) = 2 * ulp p := by
  rw [ulp, ulp, Nat.cast_add_one, add_sub_right_comm, zpow_add_one₀ two_ne_zero, mul_comm]

theorem ulp_mono {p p' : Nat} (h : p ≤ p') : ulp p ≤ ulp p' := zpow_le_zpow_right₀ one_le_two (by omega)

section Pattern

variable (neg : Bool) {p M : Nat} {x : ℚ}

/-- What magnitude bits below infinity stand for, a carry out of the fraction included. -/
theorem value_withSign (hM : M ≤ 2 ^ 24) (hnorm : p = 0 ∨ 2 ^ 23 ≤ M) (hb : p * 2 ^ 23 + M < infBits) :
    value (withSign neg (p * 2 ^ 23 + M)) = some (signed neg (M * ulp p)) := by
  rw [infBits_eq] at hb
  have hexp := expField_withSign neg (b := p * 2 ^ 23 + M) (by omega)
  have hfrac := fracField_withSign neg (b := p * 2 ^ 23 + M) (by omega)
  have hsign := (signOf_withSign neg (p * 2 ^ 23 + M)).symm
  by_cases hsub : M < 2 ^ 23
  · obtain rfl := hnorm.resolve_right (by omega)
    have hu : unpack (withSign neg (0 * 2 ^ 23 + M)) = .finite neg M (-149) :=
      unpack_eq_finite_iff.mpr ⟨hsign, .inl ⟨by omega, by omega, rfl⟩⟩
    rw [value_eq_of_unpack hu]
    rfl
  by_cases hcarry : M = 2 ^ 24
  · subst hcarry
    have hu : unpack (withSign neg (p * 2 ^ 23 + 2 ^ 24)) = .finite neg (2 ^ 23) ((p + 1 : Nat) - 149) :=
      unpack_eq_finite_iff.mpr ⟨hsign, .inr (by omega)⟩
    rw [value_eq_of_unpack hu, ← ulp, ulp_succ, ← mul_assoc]
    norm_num
  · have hu : unpack (withSign neg (p * 2 ^ 23 + M)) = .finite neg M (p - 149) :=
      unpack_eq_finite_iff.mpr ⟨hsign, .inr (by omega)⟩
    rw [value_eq_of_unpack hu, ulp]

/-- A number of at most 24 bits in units of the last place rounds to one of at most 24 bits, or to `2 ^ 24`. -/
theorem NearestEven.le_of_lt (h : NearestEven M x) (hx : x < 2 ^ 24) : M ≤ 2 ^ 24 := by
  have hlt : (M : ℚ) < (2 ^ 24 + 1 : Nat) := by
    have := h.le
    push_cast
    linarith
  have := Nat.cast_lt.mp hlt
  omega

theorem NearestEven.ge_of_ge (h : NearestEven M x) (hx : 2 ^ 23 ≤ x) : 2 ^ 23 ≤ M := by
  have hlt : ((2 ^ 23 - 1 : Nat) : ℚ) < M := by
    have hcast : ((2 ^ 23 - 1 : Nat) : ℚ) = 2 ^ 23 - 1 := by norm_num
    have := h.ge
    rw [hcast]
    linarith
  have := Nat.cast_lt.mp hlt
  omega

/-- The tie below `2 ^ 24` goes up, for `2 ^ 24 - 1` is odd. -/
theorem NearestEven.carry_iff (h : NearestEven M x) : M < 2 ^ 24 ↔ x < 2 ^ 24 - 1 / 2 := by
  constructor
  · intro hM
    by_contra hge
    push Not at hge
    have hle : (M : ℚ) ≤ 2 ^ 24 - 1 := by
      have : M ≤ 2 ^ 24 - 1 := by omega
      calc (M : ℚ) ≤ (2 ^ 24 - 1 : Nat) := by exact_mod_cast this
        _ = 2 ^ 24 - 1 := by norm_num
    have hlow := h.ge
    have hM' : (M : ℚ) = 2 ^ 24 - 1 := by linarith
    have hx' : x = 2 ^ 24 - 1 / 2 := by linarith
    have heven := h.even (by rw [hM', hx']; norm_num)
    have hMn : (M : ℚ) = (2 ^ 24 - 1 : Nat) := by rw [hM']; norm_num
    have := Nat.cast_injective hMn
    omega
  · intro hlt
    have hM : (M : ℚ) < (2 ^ 24 : Nat) := by
      have := h.le
      push_cast
      linarith
    exact_mod_cast hM

/-- The overflow bound (R126): the bits are an infinity's from the midpoint above the largest finite value on. -/
theorem overflow_iff (h : NearestEven M x) (h0 : 0 ≤ x) (hlt : x < 2 ^ 24) (hnorm : p = 0 ∨ 2 ^ 23 ≤ x) :
    x * ulp p < 2 ^ 128 - 2 ^ 103 ↔ p * 2 ^ 23 + M < infBits := by
  have hM := h.le_of_lt hlt
  have hunit : ulp 253 = 2 ^ 104 := by rw [ulp]; norm_num [zpow_ofNat]
  rw [infBits_eq]
  rcases Nat.lt_trichotomy p 253 with hp | rfl | hp
  · have hulp : ulp p ≤ 2 ^ 103 := by
      have h252 : ulp 252 = 2 ^ 103 := by
        have := ulp_succ 252
        rw [hunit] at this
        linarith
      exact h252 ▸ ulp_mono (by omega)
    have hsmall : x * ulp p ≤ 2 ^ 24 * 2 ^ 103 := mul_le_mul hlt.le hulp (ulp_pos p).le (by positivity)
    refine iff_of_true (hsmall.trans_lt (by norm_num)) (by omega)
  · have hcarry := h.carry_iff
    have hbits : 253 * 2 ^ 23 + M < 255 * 2 ^ 23 ↔ M < 2 ^ 24 := by omega
    rw [hbits, hcarry, hunit]
    constructor
    · intro hx; linarith
    · intro hx; linarith
  · have hx := hnorm.resolve_left (by omega)
    have hMlow := h.ge_of_ge hx
    have hulp : 2 * 2 ^ 104 ≤ ulp p := by
      rw [← hunit, ← ulp_succ]
      exact ulp_mono (by omega)
    have hlarge : 2 ^ 23 * (2 * 2 ^ 104) ≤ x * ulp p := mul_le_mul hx hulp (by positivity) h0
    refine iff_of_false (not_lt.mpr (le_trans (by norm_num) hlarge)) (by omega)

/-- `z` is an integer in units of `ulp p`, or too small to have 24 bits that end there. -/
def InUlps (p : Nat) (z : ℚ) : Prop := (∃ k : ℤ, z = k * ulp p) ∨ p ≠ 0 ∧ |z| < 2 ^ 23 * ulp p

theorem InUlps.signed {z : ℚ} (h : InUlps p z) : InUlps p (signed neg z) := by
  obtain ⟨k, rfl⟩ | ⟨hp, hz⟩ := h
  · refine .inl ⟨(if neg then -1 else 1) * k, ?_⟩
    cases neg <;> simp [Binary32.signed]
  · exact .inr ⟨hp, (abs_signed neg z).symm ▸ hz⟩

/-- Every finite pattern is either: its 24 bits end at its own last place. -/
theorem inUlps_of_value {w : Word} {z : ℚ} (h : value w = some z) (p : Nat) : InUlps p z := by
  obtain ⟨m, e, hu, rfl⟩ := exists_of_value h
  obtain ⟨hm, he, -⟩ := finite_bounds hu
  have hshift (d : Nat) (p' : Nat) : (2 : ℚ) ^ d * ulp p' = ulp (p' + d) := by
    rw [ulp, ulp, ← zpow_natCast, ← zpow_add₀ two_ne_zero]
    congr 1
    push_cast
    ring
  obtain ⟨j, rfl⟩ : ∃ j : Nat, e = j - 149 := ⟨(e + 149).toNat, by omega⟩
  rw [mul_assoc, ← ulp]
  by_cases hj : p ≤ j
  · left
    obtain ⟨d, rfl⟩ := Nat.exists_eq_add_of_le hj
    refine ⟨(if signOf w then -1 else 1) * (m * 2 ^ d), ?_⟩
    rw [← hshift d p]
    cases signOf w <;> push_cast <;> ring
  · right
    refine ⟨by omega, ?_⟩
    rw [← signed, abs_signed, abs_of_nonneg (mul_nonneg (Nat.cast_nonneg m) (ulp_pos j).le)]
    have hm' : (m : ℚ) < 2 ^ 24 := by exact_mod_cast hm
    have hle : ulp (j + 1) ≤ ulp p := ulp_mono (by omega)
    rw [ulp_succ] at hle
    have hpos := ulp_pos j
    calc (m : ℚ) * ulp j < 2 ^ 24 * ulp j := by gcongr
      _ = 2 ^ 23 * (2 * ulp j) := by ring
      _ ≤ 2 ^ 23 * ulp p := by gcongr

/-- The nearest number of units of the last place is nearest among all such numbers. -/
theorem NearestEven.le_inUlps {z : ℚ} (h : NearestEven M x) (hnorm : p = 0 ∨ 2 ^ 23 ≤ x) (hz : InUlps p z) :
    |M * ulp p - x * ulp p| ≤ |z - x * ulp p| ∧
      (z ≠ M * ulp p → |M * ulp p - x * ulp p| = |z - x * ulp p| → M % 2 = 0) := by
  have hpos := ulp_pos p
  have hscale (a : ℚ) : |a * ulp p - x * ulp p| = |a - x| * ulp p := by rw [← sub_mul, abs_mul, abs_of_pos hpos]
  obtain ⟨k, rfl⟩ | ⟨hp, hsmall⟩ := hz
  · obtain ⟨hle, heven⟩ := h.le_int k
    rw [hscale, hscale]
    exact ⟨mul_le_mul_of_nonneg_right hle hpos.le, fun hne heq =>
      heven (fun hk => hne (by rw [hk])) (mul_right_cancel₀ hpos.ne' heq)⟩
  · have hz : z = z / ulp p * ulp p := (div_mul_cancel₀ z hpos.ne').symm
    have hv : |z / ulp p| < 2 ^ 23 := by rwa [abs_div, abs_of_pos hpos, div_lt_iff₀ hpos]
    have hlt : |M * ulp p - x * ulp p| < |z - x * ulp p| := by
      rw [hz, hscale, hscale]
      exact mul_lt_mul_of_pos_right (h.lt_small hv (hnorm.resolve_left hp)) hpos
    exact ⟨hlt.le, fun _ heq => absurd heq hlt.ne⟩

/-- The pattern of the nearest even number of units of the last place is the number rounded. -/
theorem isRounded_of_nearestEven (h : NearestEven M x) (h0 : 0 ≤ x) (hlt : x < 2 ^ 24) (hnorm : p = 0 ∨ 2 ^ 23 ≤ x) :
    IsRounded (withSign neg (min (p * 2 ^ 23 + M) infBits)) (signed neg (x * ulp p)) := by
  have hpos := ulp_pos p
  have habs : |signed neg (x * ulp p)| = x * ulp p := by rw [abs_signed, abs_of_nonneg (mul_nonneg h0 hpos.le)]
  have hover := overflow_iff h h0 hlt hnorm
  unfold IsRounded
  rw [habs]
  split
  · next hfin =>
    have hb := hover.mp hfin
    rw [min_eq_left hb.le]
    have hvalue := value_withSign neg (h.le_of_lt hlt) (hnorm.imp_right h.ge_of_ge) hb
    refine ⟨_, hvalue, fun w z hz => ?_⟩
    obtain ⟨hle, heven⟩ := h.le_inUlps hnorm ((inUlps_of_value hz p).signed neg)
    have hother : |z - signed neg (x * ulp p)| = |signed neg z - x * ulp p| := by
      rw [← abs_signed neg, ← signed_sub, signed_signed]
    rw [signed_sub, abs_signed, hother]
    refine ⟨hle, fun hne heq => ?_⟩
    have hbit := heven (fun hz' => hne (by rw [← hz', signed_signed])) heq
    rw [infBits_eq] at hb
    rw [getLsbD_withSign neg (by omega), decide_eq_false_iff_not]
    omega
  · next hinf =>
    rw [min_eq_right (not_lt.mp (mt hover.mpr hinf)), infinity]
    congr 1
    have hx : 0 < x * ulp p := lt_of_lt_of_le (by norm_num) (not_lt.mp hinf)
    cases neg with
    | false => simp [signed, hx.le]
    | true => simp [signed, hx]

end Pattern

end Sys2Proof.Machine.Binary32
end

section
/-! The narrowing that the four operations share, and the operations on finite numbers (47_arith.md R121, R126). -/

namespace Sys2Proof.Machine.Binary32

/-! Narrowing. -/

section Round

variable (neg : Bool) {N : Nat} {e : Int} {t : ℚ}

theorem lastPlace_ge (n : Nat) (e : Int) : e + (n.log2 : Int) - 23 ≤ lastPlace n e := le_max_left ..

theorem ulp_lastPlace (n : Nat) (e : Int) : ulp (lastPlace n e + 149).toNat = 2 ^ lastPlace n e := by
  have hmin : -149 ≤ lastPlace n e := le_max_right ..
  rw [ulp]
  congr 1
  omega

theorem Sticky.lt_two_pow (h : Sticky N t) : t < 2 ^ (N.log2 + 1) := by
  have hN : (N : ℚ) + 1 ≤ 2 ^ (N.log2 + 1) := by exact_mod_cast Nat.lt_log2_self (n := N)
  obtain rfl | ⟨-, -, hlt⟩ := h
  · linarith
  · linarith

/-- Cutting off at an odd number does not reach below the power of two under it. -/
theorem Sticky.two_pow_le (h : Sticky N t) (hN : N ≠ 0) (hbits : t = N ∨ N.log2 ≠ 0) : 2 ^ N.log2 ≤ t := by
  have hle := Nat.log2_self_le hN
  have hle' : (2 : ℚ) ^ N.log2 ≤ N := by exact_mod_cast hle
  by_cases hexact : t = N
  · rwa [hexact]
  · obtain ⟨hodd, hlow, -⟩ := h.resolve_left hexact
    obtain ⟨j, hj⟩ := Nat.exists_eq_succ_of_ne_zero (hbits.resolve_left hexact)
    have hpred : 2 ^ N.log2 + 1 ≤ N := by
      rw [hj, Nat.pow_succ] at hle ⊢
      omega
    have hpred' : (2 : ℚ) ^ N.log2 + 1 ≤ N := by exact_mod_cast hpred
    linarith

theorem nearestEven_roundedMant (h : Sticky N t) (hbits : t = N ∨ 25 ≤ N.log2) :
    NearestEven (roundedMant N e) (t * 2 ^ (e - lastPlace N e)) := by
  have hge := lastPlace_ge N e
  unfold roundedMant
  dsimp only
  split
  · next hle =>
    obtain rfl := hbits.resolve_right (by omega)
    have hexp : ((e - lastPlace N e).toNat : Int) = e - lastPlace N e := by omega
    have hcast : ((N * 2 ^ (e - lastPlace N e).toNat : Nat) : ℚ) = N * 2 ^ (e - lastPlace N e) := by
      rw [Nat.cast_mul, Nat.cast_pow, Nat.cast_ofNat, ← zpow_natCast, hexp]
    exact hcast ▸ nearestEven_self _
  · have hexp : e - lastPlace N e = -((lastPlace N e - e).toNat : Int) := by omega
    rw [hexp, zpow_neg, zpow_natCast, ← div_eq_mul_inv]
    exact nearestEven_roundShift h (hbits.imp_right fun _ => by omega)

/-- Narrowing rounds the number of which it gets all bits, or 26 and whether anything was cut off. -/
theorem isRounded_round (hN : N ≠ 0) (h : Sticky N t) (hbits : t = N ∨ 25 ≤ N.log2) :
    IsRounded (round neg N e) (signed neg (t * 2 ^ e)) := by
  have hge := lastPlace_ge N e
  have hscale : t * 2 ^ (e - lastPlace N e) * ulp (lastPlace N e + 149).toNat = t * 2 ^ e := by
    rw [ulp_lastPlace, mul_assoc, ← zpow_add₀ two_ne_zero, sub_add_cancel]
  have hlow : 2 ^ N.log2 ≤ t := h.two_pow_le hN (hbits.imp_right fun _ => by omega)
  have hpos : (0 : ℚ) < 2 ^ (e - lastPlace N e) := zpow_pos two_pos _
  have hlt : t * 2 ^ (e - lastPlace N e) < 2 ^ 24 := by
    calc t * 2 ^ (e - lastPlace N e) < 2 ^ (N.log2 + 1) * 2 ^ (e - lastPlace N e) :=
          mul_lt_mul_of_pos_right h.lt_two_pow hpos
      _ = 2 ^ ((N.log2 + 1 : Nat) + (e - lastPlace N e) : Int) := by rw [zpow_add₀ two_ne_zero, zpow_natCast]
      _ ≤ 2 ^ (24 : Int) := zpow_le_zpow_right₀ one_le_two (by omega)
      _ = 2 ^ 24 := by norm_num
  have hnorm : (lastPlace N e + 149).toNat = 0 ∨ 2 ^ 23 ≤ t * 2 ^ (e - lastPlace N e) := by
    by_cases hmin : lastPlace N e = -149
    · exact .inl (by omega)
    · right
      have hplace : lastPlace N e = e + (N.log2 : Int) - 23 := (max_choice _ _).resolve_right hmin
      calc (2 : ℚ) ^ 23 = 2 ^ (N.log2 + (e - lastPlace N e) : Int) := by
            rw [hplace, show (N.log2 + (e - (e + N.log2 - 23)) : Int) = (23 : Nat) by omega, zpow_natCast]
        _ = 2 ^ N.log2 * 2 ^ (e - lastPlace N e) := by rw [zpow_add₀ two_ne_zero, zpow_natCast]
        _ ≤ t * 2 ^ (e - lastPlace N e) := mul_le_mul_of_nonneg_right hlow hpos.le
  have h0 : 0 ≤ t * 2 ^ (e - lastPlace N e) := mul_nonneg ((pow_nonneg two_pos.le _).trans hlow) hpos.le
  rw [round, if_neg hN, roundBits, ← hscale]
  exact isRounded_of_nearestEven neg (nearestEven_roundedMant h hbits) h0 hlt hnorm

theorem isRounded_zero : IsRounded (zero neg) 0 := by
  have h := isRounded_of_nearestEven (p := 0) neg (nearestEven_self 0) le_rfl (by norm_num) (.inl rfl)
  rwa [Nat.cast_zero, zero_mul (ulp 0), signed, mul_zero] at h

/-- The narrowing of an exact number. -/
theorem isRounded_round_exact (m : Nat) (e : Int) : IsRounded (round neg m e) (signed neg (m * 2 ^ e)) := by
  by_cases hm : m = 0
  · rw [hm, round, if_pos rfl, Nat.cast_zero, zero_mul, signed, mul_zero]
    exact isRounded_zero neg
  · exact isRounded_round neg hm (.inl rfl) (.inl rfl)

end Round

/-! The operations on finite numbers. -/

section Finite

variable (n₁ n₂ : Bool) (m₁ m₂ : Nat) (e₁ e₂ : Int)

theorem scaled_mul_zpow (n : Bool) (m : Nat) {e unit : Int} (h : unit ≤ e) :
    (scaled n m e unit : ℚ) * 2 ^ unit = signed n (m * 2 ^ e) := by
  have hexp : ((e - unit).toNat : Int) = e - unit := by omega
  have hmag : ((m * 2 ^ (e - unit).toNat : Nat) : ℚ) * 2 ^ unit = m * 2 ^ e := by
    rw [Nat.cast_mul, Nat.cast_pow, Nat.cast_ofNat, ← zpow_natCast, hexp, mul_assoc, ← zpow_add₀ two_ne_zero,
      sub_add_cancel]
  cases n with
  | false => rw [signed, ← hmag]; simp [scaled]
  | true => rw [signed, ← hmag]; simp [scaled]

theorem signed_natAbs (t : Int) (x : ℚ) : signed (decide (t < 0)) (t.natAbs * x) = t * x := by
  rw [signed, ← mul_assoc]
  congr 1
  by_cases h : t < 0
  · have habs : ((t.natAbs : Int) : ℚ) = -t := by exact_mod_cast Int.ofNat_natAbs_of_nonpos h.le
    simp only [h, decide_true, if_true, neg_mul, one_mul]
    rw [← Int.cast_natCast, habs, neg_neg]
  · have habs : ((t.natAbs : Int) : ℚ) = t := by exact_mod_cast Int.natAbs_of_nonneg (not_lt.mp h)
    simp only [h, decide_false, Bool.false_eq_true, if_false, one_mul]
    rw [← Int.cast_natCast, habs]

theorem isRounded_addFinite :
    IsRounded (addFinite n₁ m₁ e₁ n₂ m₂ e₂) (signed n₁ (m₁ * 2 ^ e₁) + signed n₂ (m₂ * 2 ^ e₂)) := by
  have hsum : signed n₁ (m₁ * 2 ^ e₁) + signed n₂ (m₂ * 2 ^ e₂) =
      ((scaled n₁ m₁ e₁ (min e₁ e₂) + scaled n₂ m₂ e₂ (min e₁ e₂) : Int) : ℚ) * 2 ^ min e₁ e₂ := by
    rw [Int.cast_add, add_mul, scaled_mul_zpow n₁ m₁ (min_le_left ..), scaled_mul_zpow n₂ m₂ (min_le_right ..)]
  rw [hsum, addFinite]
  split
  · next hzero =>
    rw [hzero, Int.cast_zero, zero_mul]
    exact isRounded_zero _
  · rw [← signed_natAbs]
    exact isRounded_round_exact _ _ _

theorem signed_not (n : Bool) (x : ℚ) : signed (!n) x = -signed n x := by
  cases n <;> simp [signed]

theorem signed_xor (x y : ℚ) : signed (n₁ ^^ n₂) (x * y) = signed n₁ x * signed n₂ y := by
  cases n₁ <;> cases n₂ <;> simp [signed]

theorem signed_inv (n : Bool) (x : ℚ) : signed n x⁻¹ = (signed n x)⁻¹ := by
  cases n <;> simp [signed, inv_neg]

theorem isRounded_mulFinite : IsRounded (round (n₁ ^^ n₂) (m₁ * m₂) (e₁ + e₂))
    (signed n₁ (m₁ * 2 ^ e₁) * signed n₂ (m₂ * 2 ^ e₂)) := by
  have hprod : (m₁ * 2 ^ e₁ : ℚ) * (m₂ * 2 ^ e₂) = (m₁ * m₂ : Nat) * 2 ^ (e₁ + e₂) := by
    rw [zpow_add₀ two_ne_zero]
    push_cast
    ring
  rw [← signed_xor, hprod]
  exact isRounded_round_exact ..

/-- Twice a quotient, cut off to an integer whose last bit says whether a remainder is left. -/
theorem sticky_quotient (n : Nat) {m : Nat} (hm : 0 < m) :
    Sticky (2 * (n / m) + if n % m = 0 then 0 else 1) (2 * n / m) := by
  have hm' : (0 : ℚ) < m := by exact_mod_cast hm
  have hdiv : (n : ℚ) = (n / m : Nat) * m + (n % m : Nat) := by exact_mod_cast (Nat.div_add_mod' n m).symm
  have hquot : (2 * n / m : ℚ) = 2 * (n / m : Nat) + 2 * ((n % m : Nat) / m) := by
    rw [div_eq_iff hm'.ne', hdiv]
    field_simp
  split
  · next hzero =>
    left
    rw [hquot, hzero]
    push_cast
    ring
  · next hrem =>
    have hpos : 0 < ((n % m : Nat) : ℚ) / m := div_pos (by exact_mod_cast Nat.pos_of_ne_zero hrem) hm'
    have hlt : ((n % m : Nat) : ℚ) / m < 1 := (div_lt_one hm').mpr (by exact_mod_cast Nat.mod_lt n hm)
    right
    rw [hquot, Nat.cast_add, Nat.cast_mul, Nat.cast_one, Nat.cast_ofNat]
    exact ⟨by omega, by linarith, by linarith⟩

/-- A quotient has 26 bits before it is cut off, for its divisor has at most 24. -/
theorem isRounded_divFinite (hm : 0 < m₂) (hlt : m₂ < 2 ^ 24) :
    IsRounded (divFinite (n₁ ^^ n₂) m₁ e₁ m₂ e₂) (signed n₁ (m₁ * 2 ^ e₁) / signed n₂ (m₂ * 2 ^ e₂)) := by
  have hm' : (m₂ : ℚ) ≠ 0 := by exact_mod_cast hm.ne'
  have hquot : (m₁ * (2 : ℚ) ^ e₁) * (m₂ * (2 : ℚ) ^ e₂)⁻¹ = 2 * (m₁ * 2 ^ 50 : Nat) / m₂ * (2 : ℚ) ^ (e₁ - e₂ - 51) := by
    rw [zpow_sub₀ two_ne_zero, zpow_sub₀ two_ne_zero]
    push_cast
    field_simp
    ring
  rw [div_eq_mul_inv, ← signed_inv, ← signed_xor, hquot, divFinite]
  by_cases hzero : m₁ = 0
  · subst hzero
    have hx : signed (n₁ ^^ n₂) (2 * (0 * 2 ^ 50 : Nat) / m₂ * 2 ^ (e₁ - e₂ - 51)) = 0 := by simp [signed]
    rw [hx, Nat.zero_mul, Nat.zero_mod, if_pos rfl, Nat.zero_div, round, if_pos rfl]
    exact isRounded_zero _
  · have hlarge : 2 ^ 26 ≤ m₁ * 2 ^ 50 / m₂ := by
      rw [Nat.le_div_iff_mul_le hm]
      calc 2 ^ 26 * m₂ ≤ 2 ^ 26 * 2 ^ 24 := Nat.mul_le_mul_left _ hlt.le
        _ = 1 * 2 ^ 50 := by norm_num
        _ ≤ m₁ * 2 ^ 50 := Nat.mul_le_mul_right _ (Nat.pos_of_ne_zero hzero)
    have hN : 2 * (m₁ * 2 ^ 50 / m₂) + (if m₁ * 2 ^ 50 % m₂ = 0 then 0 else 1) ≠ 0 := by omega
    refine isRounded_round _ hN (sticky_quotient _ hm) (.inr ((Nat.le_log2 hN).mpr ?_))
    omega

end Finite

/-- A pattern of a value, its datum written with `signed`. -/
theorem exists_signed_of_value {w : Word} {x : ℚ} (h : value w = some x) : ∃ (m : Nat) (e : Int),
    unpack w = .finite (signOf w) m e ∧ m < 2 ^ 24 ∧ x = signed (signOf w) (m * 2 ^ e) := by
  obtain ⟨m, e, hu, hx⟩ := exists_of_value h
  obtain ⟨hm, -⟩ := finite_bounds hu
  exact ⟨m, e, hu, hm, by rw [hx, signed, mul_assoc]⟩

/-- The four functions round the exact result (R121). -/
theorem isRounded_operations {a b : Word} {x y : ℚ} (ha : value a = some x) (hb : value b = some y) :
    IsRounded (add a b) (x + y) ∧ IsRounded (sub a b) (x - y) ∧ IsRounded (mul a b) (x * y) ∧
      (y ≠ 0 → IsRounded (div a b) (x / y)) := by
  obtain ⟨m, e, hua, -, rfl⟩ := exists_signed_of_value ha
  obtain ⟨m', e', hub, hm', rfl⟩ := exists_signed_of_value hb
  refine ⟨?_, ?_, ?_, fun hy => ?_⟩
  · rw [add, hua, hub]
    exact isRounded_addFinite ..
  · rw [sub, hua, hub, sub_eq_add_neg, ← signed_not]
    exact isRounded_addFinite ..
  · rw [mul, hua, hub]
    exact isRounded_mulFinite ..
  · have hne : m' ≠ 0 := by
      rintro rfl
      exact hy (by rw [Nat.cast_zero, zero_mul, signed, mul_zero])
    rw [div, hua, hub, divData, if_neg hne]
    exact isRounded_divFinite _ _ _ _ _ _ (Nat.pos_of_ne_zero hne) hm'

/-- The overflow bound is beyond every finite value. -/
theorem abs_value_lt {w : Word} {x : ℚ} (h : value w = some x) : |x| < 2 ^ 128 - 2 ^ 103 := by
  obtain ⟨m, e, hu, hm, rfl⟩ := exists_signed_of_value h
  obtain ⟨-, -, he⟩ := finite_bounds hu
  have hm' : (m : ℚ) ≤ 2 ^ 24 - 1 := by
    have hcast : (m : ℚ) + 1 ≤ 2 ^ 24 := by exact_mod_cast hm
    linarith
  have hpow : (2 : ℚ) ^ e ≤ 2 ^ 104 := by
    calc (2 : ℚ) ^ e ≤ 2 ^ (104 : Int) := zpow_le_zpow_right₀ one_le_two he
      _ = 2 ^ 104 := by norm_num
  have hpos : (0 : ℚ) < 2 ^ e := zpow_pos two_pos e
  rw [abs_signed, abs_of_nonneg (mul_nonneg (Nat.cast_nonneg m) hpos.le)]
  calc (m : ℚ) * 2 ^ e ≤ (2 ^ 24 - 1) * 2 ^ 104 := mul_le_mul hm' hpow hpos.le (by norm_num)
    _ < 2 ^ 128 - 2 ^ 103 := by norm_num

/-- A representable number is its own rounding, for nothing is as near to it. -/
theorem IsRounded.value_eq {v w : Word} {x : ℚ} (h : IsRounded v x) (hw : value w = some x) : value v = some x := by
  rw [IsRounded, if_pos (abs_value_lt hw)] at h
  obtain ⟨y, hy, hnear⟩ := h
  obtain ⟨hle, -⟩ := hnear w x hw
  rw [sub_self, abs_zero, abs_nonpos_iff, sub_eq_zero] at hle
  rw [hy, hle]

end Sys2Proof.Machine.Binary32

namespace Sys2Proof.Machine

open Binary32

/-- Settles O58: every operation narrows the exact result, or for a quotient one with a sticky bit, and narrowing rounds. -/
theorem roundingIsToNearestEven : Obligations.RoundingIsToNearestEven := by
  refine ⟨fun a b x y ha hb => isRounded_operations ha hb, fun neg m e => ?_⟩
  rw [mul_assoc]
  exact isRounded_round_exact neg m e

/-- Settles O57: an exact result that is representable is its own rounding. -/
theorem exactResultsAreReturned : Obligations.ExactResultsAreReturned := by
  intro a b w x y ha hb
  obtain ⟨hadd, hsub, hmul, hdiv⟩ := isRounded_operations ha hb
  exact ⟨hadd.value_eq, hsub.value_eq, hmul.value_eq, fun hy => (hdiv hy).value_eq⟩

end Sys2Proof.Machine
end
